-- ==== Sys2Proof/Word.lean ====
section
/-! DEFINITION. The byte, and the plain data types that instruction operands are made of. -/

namespace Sys2Proof

/-- A data byte, a status code, a control mask, a register of the controller: 8 bits (spec R7, R52). -/
abbrev Byte := BitVec 8

/-- A target device address. The field holds up to 10 bits (R7, `ADDR_W`, and R12); only 0x00 to 0x7F have a meaning. -/
abbrev DeviceAddress := BitVec 10

/-- The direction of a transaction and the current phase, `rec.operation` (R14). -/
inductive Direction where
  | write
  | read
  deriving DecidableEq, Repr

/-- What the host hands to `SubmitTransaction`, the `SUBMIT` format (R65, R70).
A buffer is its bytes; its length is their number.
`timeout` is the opaque `duration` of R21: stored and never computed with. -/
structure Submission where
  address   : DeviceAddress
  direction : Direction
  outBuffer : List Byte
  inBuffer  : List Byte
  repeated  : Bool
  timeout   : Nat
  deriving DecidableEq, Repr

/-- The collaborators' answers to the calls `Initialize` makes (R130, R154).
`pinFailure`: the first of the six pin-configuration calls that fails, or none of them.
`power`: the frequency in Hz `PowerUpPeripheral` returns, or failure.
`registerOk`: whether `Register` succeeds. -/
structure InitAnswers where
  pinFailure : Option (Fin 6)
  power      : Option Nat
  registerOk : Bool
  deriving DecidableEq, Repr

end Sys2Proof
end

