-- ==== Sys2Proof/Config.lean ====
section
/-! DEFINITION. What the spec fixes once (R7), and the parameters it leaves open, which have no body:
nothing in Lean can evaluate one, so a statement about one holds for every value. -/

namespace Sys2Proof

/-- `TARGET_FREQ`, 75 kHz (R7, R72). -/
def Config.targetFreq : Nat := 75000

/-- `W_SIZE - 1`: `W_SIZE` is OPEN, a natural of at least 1 (R7, D4). -/
opaque Config.wSizeLessOne : Nat

/-- `W_SIZE`, the width of `usize`. No meaning computes with it: arithmetic is on naturals (R86). -/
def Config.wSize : Nat := Config.wSizeLessOne + 1

/-- `N_INSTANCES - 1`: `N_INSTANCES` is OPEN, a natural of at least 1 (R7, D29). -/
opaque Config.nInstancesLessOne : Nat

/-- `N_INSTANCES`, how many identical controllers the chip has (R155). -/
def Config.nInstances : Nat := Config.nInstancesLessOne + 1

/-- `DIV_W`, the width of each divider register: OPEN (R7, U15). The value written is the mathematical one (R34, R72);
`dividersFit` is the premise that it fits. -/
opaque Config.divW : Nat

/-! The tokens each instance hands to the collaborators, by the index of the instance: each has its own identifiers (R24,
R155). DESIGN CHOICE (log entry 6): whether two instances' tokens differ is left open, since no rule says so. -/

/-- The pin function code an instance hands to `SetFunction`, an OPEN opaque token (R7, R154). -/
opaque Config.pinFunction : Nat → Nat

/-- The peripheral `id` an instance hands to `PowerUpPeripheral`, an OPEN opaque token (R7, R154, R155). -/
opaque Config.peripheralId : Nat → Nat

/-- The `IRQ_NUMBER` an instance hands to `Register`, an OPEN opaque token (R7, R154, R155). -/
opaque Config.irqNumber : Nat → Nat

end Sys2Proof
end

