-- ==== Sys2Proof/Syntax.lean ====
section
/-! DEFINITION. The instructions: one constructor per row of the opcode table (R6, R66, R130 to R136). -/

namespace Sys2Proof

/-- An instruction is one event, selected by the status code the controller reports, or one host command (R6).
An event's operands are the Transaction Record and the receive byte, both in the machine's state.
A host command carries what the host hands over and the answers its oracles give (R9, `oracle.<name>`). -/
inductive Instr where
  /-- `EV_BUS_ERROR`, code 0x00 (R90). -/
  | busError
  /-- `EV_START`, code 0x08 (R91). -/
  | start
  /-- `EV_REP_START`, code 0x10 (R92). -/
  | repStart
  /-- `EV_SLAW_ACK`, code 0x18 (R100). -/
  | slawAck
  /-- `EV_SLAW_NACK`, code 0x20 (R101). -/
  | slawNack
  /-- `EV_TXDATA_ACK`, code 0x28 (R102). -/
  | txdataAck
  /-- `EV_TXDATA_NACK`, code 0x30 (R103). -/
  | txdataNack
  /-- `EV_ARB_LOST`, code 0x38 (R93). -/
  | arbLost
  /-- `EV_SLAR_ACK`, code 0x40 (R110). -/
  | slarAck
  /-- `EV_SLAR_NACK`, code 0x48 (R111). -/
  | slarNack
  /-- `EV_RXDATA_ACK`, code 0x50 (R112). -/
  | rxdataAck
  /-- `EV_RXDATA_NACK`, code 0x58 (R113). -/
  | rxdataNack
  /-- `EV_SLAVE_ADDR`, code 0xA0 (R120). -/
  | slaveAddr
  /-- `EV_NO_STATE`, code 0xF8 (R121). -/
  | noState
  /-- `EV_UNKNOWN`, any other code (R122). -/
  | unknown (code : Byte)
  /-- `INITIALIZE`: the micro-steps I1 to I6 (R130). -/
  | initialise (answers : InitAnswers)
  /-- `IS_INITIALIZED` (R131). -/
  | isInitialized
  /-- `SUBMIT_TRANSACTION`: the micro-steps S1 to S3 (R132). -/
  | submitTransaction (t : Submission)
  /-- `WAIT`: one evaluation of W, with the answer of the deadline oracle (R134). -/
  | wait (deadlineElapsed : Bool)
  /-- `TIMEOUT_ABORT`: the micro-steps A1 to A4 (R135). -/
  | timeoutAbort
  /-- `RETURN`: the micro-steps F1 and F2 (R136). -/
  | returnStatus
  deriving DecidableEq, Repr

end Sys2Proof
end

