-- ==== Sys2Proof/WellFormed.lean ====
section
/-! DEFINITION. Which instructions the spec's formats admit. -/

namespace Sys2Proof

/-- The fourteen status codes of the opcode map that have a name (R66). -/
def namedCodes : List Byte :=
  [0x00#8, 0x08#8, 0x10#8, 0x18#8, 0x20#8, 0x28#8, 0x30#8, 0x38#8, 0x40#8, 0x48#8, 0x50#8, 0x58#8, 0xA0#8, 0xF8#8]

/-- An unknown event carries a code outside the fourteen (R122).
A submission's address is at most 0x7F (R12, D3).
A frequency `PowerUpPeripheral` answers is a positive natural (R7, R72). -/
def Instr.wellFormed : Instr → Bool
  | .unknown code => !namedCodes.contains code
  | .submitTransaction t => decide (t.address ≤ 0x7F#10)
  | .initialise a => a.power != some 0
  | .busError | .start | .repStart | .slawAck | .slawNack | .txdataAck | .txdataNack | .arbLost
  | .slarAck | .slarNack | .rxdataAck | .rxdataNack | .slaveAddr | .noState
  | .isInitialized | .wait _ | .timeoutAbort | .returnStatus => true

/-- The buffers' lengths fit a `usize` of the implementation: lengths are below `2^W_SIZE` (R7, D4).
A premise for statements; the model itself does not bound a buffer. -/
def Submission.fitsUsize (t : Submission) : Prop :=
  t.outBuffer.length < 2 ^ Config.wSize ∧ t.inBuffer.length < 2 ^ Config.wSize

end Sys2Proof
end

