-- ==== Sys2Proof/Decode.lean ====
section
/-! DEFINITION. The decoder: the status code read from `STAT` selects one instruction (R65 to R67),
and after it the encoder, written from the same table. -/

namespace Sys2Proof

/-- Why bytes are not decoded. -/
inductive DecodeError where
  /-- There is no status byte to read. -/
  | noStatusByte
  deriving DecidableEq, Repr

/-- One row of the opcode map (R66): a code matches where, under the mask, it equals the pattern. -/
structure OpcodeRow where
  pattern : Byte
  mask    : Byte
  instr   : Instr
  deriving DecidableEq, Repr

/-- The fourteen named rows of the opcode map; every mask is 0xFF (R66, R67). -/
def opcodeRows : List OpcodeRow :=
  [ ⟨0x00#8, 0xFF#8, .busError⟩,
    ⟨0x08#8, 0xFF#8, .start⟩,
    ⟨0x10#8, 0xFF#8, .repStart⟩,
    ⟨0x18#8, 0xFF#8, .slawAck⟩,
    ⟨0x20#8, 0xFF#8, .slawNack⟩,
    ⟨0x28#8, 0xFF#8, .txdataAck⟩,
    ⟨0x30#8, 0xFF#8, .txdataNack⟩,
    ⟨0x38#8, 0xFF#8, .arbLost⟩,
    ⟨0x40#8, 0xFF#8, .slarAck⟩,
    ⟨0x48#8, 0xFF#8, .slarNack⟩,
    ⟨0x50#8, 0xFF#8, .rxdataAck⟩,
    ⟨0x58#8, 0xFF#8, .rxdataNack⟩,
    ⟨0xA0#8, 0xFF#8, .slaveAddr⟩,
    ⟨0xF8#8, 0xFF#8, .noState⟩ ]

/-- Decoding is total on the 256 status codes; a code no row matches is `EV_UNKNOWN` (R67, R73). -/
def decodeByte (code : Byte) : Instr :=
  match opcodeRows.find? fun r => code &&& r.mask == r.pattern with
  | some r => r.instr
  | none => .unknown code

/-- An instruction is one status byte, with no prefix and no second length (R77). -/
def decode : List Byte → Except DecodeError (Instr × List Byte)
  | [] => .error .noStatusByte
  | code :: rest => .ok (decodeByte code, rest)

/-- The status code of an event; a host command has no bit pattern (R65, R70). -/
def encodeByte : Instr → Option Byte
  | .busError => some 0x00#8
  | .start => some 0x08#8
  | .repStart => some 0x10#8
  | .slawAck => some 0x18#8
  | .slawNack => some 0x20#8
  | .txdataAck => some 0x28#8
  | .txdataNack => some 0x30#8
  | .arbLost => some 0x38#8
  | .slarAck => some 0x40#8
  | .slarNack => some 0x48#8
  | .rxdataAck => some 0x50#8
  | .rxdataNack => some 0x58#8
  | .slaveAddr => some 0xA0#8
  | .noState => some 0xF8#8
  | .unknown code => some code
  | .initialise _ => none
  | .isInitialized => none
  | .submitTransaction _ => none
  | .wait _ => none
  | .timeoutAbort => none
  | .returnStatus => none

/-- The bytes of an instruction: an event's status byte, nothing for a host command (R75). -/
def encode (i : Instr) : List Byte := (encodeByte i).toList

/-- Whether the instruction is an event, performed in interrupt context; the others are the host's (R6, R10). -/
def Instr.isEvent (i : Instr) : Bool := (encodeByte i).isSome

/-- The bytes of a word of `nbits` bits, least significant byte first; the bits above `nbits` are 0. -/
def wordBytes (nbits w : Nat) : List Byte :=
  (List.range ((nbits + 7) / 8)).map fun k => BitVec.ofNat 8 (w % 2 ^ nbits / 2 ^ (8 * k))

/-- The instruction the decoder reads from a word of the opcode table. -/
def decodeTableWord (nbits w : Nat) : Option Instr :=
  match decode (wordBytes nbits w) with
  | .ok (i, _) => some i
  | .error _ => none

end Sys2Proof
end

