-- ==== Sys2Proof/Machine/State.lean ====
section
/-! DEFINITION. The state of one instance of the sequencer (`10_state.md`), plain data, and its value after reset. -/

namespace Sys2Proof.Machine

/-- The contents of a buffer, `OUT` or `IN` (R45): the index of a byte and the byte, in one canonical form.
Indices strictly rise and no entry holds what an unlisted index reads as. -/
abbrev Memory := List Host.Cell

/-- `rec.status` (R20). The spec gives it no numeric encoding. -/
inductive Status where
  | success
  | busError
  | deviceNotFound
  | timedOut
  /-- In the type and never written by any step (R20, D5). -/
  | inProgress
  deriving DecidableEq, Repr

/-- The two buffer spaces the block indexes (R45). -/
inductive Space where
  | out
  | in
  deriving DecidableEq, Repr

/-- The faults an instance can latch, and with which a step of a latched instance then stops (R37 c, R140). -/
inductive Fault where
  /-- Latched by the event step that reads a status code outside the fourteen (R122, R143).
  Every later step of the instance stops with it.
  Safe: the spec takes the halt, and nothing can be proved of what the chip does afterwards. -/
  | internalFatal (code : Byte)
  /-- Latched by the guard of `SubmitTransaction` while `I2EN` is clear (R132, R144).
  Every later step of the instance stops with it.
  Safe: the call does not return. -/
  | notInitialized
  /-- Latched by events 0x18 and 0x58 when they index a buffer outside its length, or with none bound (R48, R145).
  Every later step of the instance stops with it.
  Safe: the chip would touch memory outside the buffer and go on, and nothing can be proved of that. -/
  | bufferBounds (space : Space) (index length : Nat)
  deriving DecidableEq, Repr

/-- What the model does not accept: each is a step the spec says the machine does not have. -/
inductive Refusal where
  /-- An instruction with no meaning yet; raised by no arm of this model. Safe. -/
  | notModelled (mnemonic : String)
  /-- An event step with no handler registered or with `SI` clear: it is not enabled (R80), and a spurious entry is
  outside the model (R121). Raised by every event. Safe. -/
  | eventNotEnabled
  /-- CTRL raising an event while `SI` is set: it raises the next only after `SI` is cleared (R27, D19, U4).
  Raised by the controller's turn. Safe. -/
  | eventWhilePending
  /-- A host command while the foreground is inside another call of the instance (R173, U3, and R130 corner b).
  Raised by `INITIALIZE`, `IS_INITIALIZED` and `SUBMIT_TRANSACTION`. Safe. -/
  | callOutstanding
  /-- `SubmitTransaction` with an address above 0x7F (R12, D3, U9). Raised by `SUBMIT_TRANSACTION`. Safe. -/
  | addressAbove7F
  /-- `Initialize` while a transaction is live or its tail outstanding (R130 corner b, U11).
  Raised by `INITIALIZE`. Safe. -/
  | initialiseNotQuiescent
  /-- `WAIT`, `TIMEOUT_ABORT` or `RETURN` while the foreground does not stand at a micro-step of it (R37 d, R137).
  Raised by those three. Safe. -/
  | hostElsewhere
  /-- A turn of the foreground that names an event: only the interrupt context performs events (R10, R152).
  Raised by the step. Safe. -/
  | notHostCommand
  deriving DecidableEq, Repr

/-- The Transaction Record (R11 to R21): eleven fields. -/
structure TransactionRecord where
  /-- R12 -/
  address   : DeviceAddress
  /-- The current phase (R14). -/
  operation : Direction
  /-- The bytes of `data_out`, or no buffer bound (R15, R39). -/
  dataOut   : Option Memory
  /-- R15 -/
  outLength : Nat
  /-- The bytes of `data_in`, or no buffer bound (R16, R39). -/
  dataIn    : Option Memory
  /-- R16 -/
  inLength  : Nat
  /-- The cursor (R17). -/
  position  : Nat
  /-- R18 -/
  repeated  : Bool
  /-- R19 -/
  busy      : Bool
  /-- R20 -/
  status    : Status
  /-- R21 -/
  timeout   : Nat
  deriving DecidableEq, Repr

/-- The two bus lines (R130, I1). -/
inductive BusLine where
  | data
  | clock
  deriving DecidableEq, Repr

/-- The calls `Initialize` makes to the collaborators (R130, R154). The tokens some of them carry are fixed for
each instance (`CollabCall.token`). -/
inductive CollabCall where
  | setFunction (line : BusLine)
  | setOpenDrain (line : BusLine)
  /-- `SetPullResistor(line, None)` -/
  | setPullResistorNone (line : BusLine)
  | powerUpPeripheral
  | register
  deriving DecidableEq, Repr

/-- What a collaborator answers (R154). -/
inductive CollabAnswer where
  | ok
  | failure
  /-- In Hz. -/
  | frequency (f : Nat)
  deriving DecidableEq, Repr

/-- The items of the trace (R38). -/
inductive TraceItem where
  | statRead (code : Byte)
  | datWrite (v : Byte)
  | datRead (v : Byte)
  | conSet (mask : Byte)
  | conClr (mask : Byte)
  /-- `MemRead(OUT+i, v)` -/
  | memRead (i : Nat) (v : Byte)
  /-- `MemWrite(IN+i, v)` -/
  | memWrite (i : Nat) (v : Byte)
  | divWrite (lo hi : Nat)
  | collab (call : CollabCall) (answer : CollabAnswer)
  /-- `Warning(MultiPhaseTimeout)` (R156). -/
  | warningMultiPhaseTimeout
  | returned (status : Status)
  | fault (f : Fault)
  deriving DecidableEq, Repr

/-- The host control state (R37 d): the micro-step the foreground performs next.
What a micro-step still needs of its call stands with it. -/
inductive HostPoint where
  /-- Not inside a host command. -/
  | idle
  /-- Before I2. -/
  | initPower
  /-- Before I3, with the frequency I2 obtained. -/
  | initDividers (f : Nat)
  /-- Before I4. -/
  | initClear
  /-- Before I5. -/
  | initEnable
  /-- Before I6. -/
  | initRegister
  /-- Before S2, the guard passed. -/
  | submitInstall (t : Submission)
  /-- Before S3, the record installed. -/
  | submitStart (t : Submission)
  /-- At W. -/
  | waiting
  /-- Before A1. -/
  | abortStop
  /-- Before A2. -/
  | abortNack
  /-- Before A3. -/
  | abortStatus
  /-- Before A4. -/
  | abortWarn
  /-- Before F1. -/
  | returnClear
  /-- Before F2. -/
  | returnRead
  deriving DecidableEq, Repr

/-- What a host command returned to its caller (R130, R131, R133). -/
inductive HostReturn where
  /-- `Initialize` succeeded. -/
  | ok
  /-- `Initialize` failed: a collaborator call did. -/
  | failure
  /-- The answer of `IsInitialized`. -/
  | flag (b : Bool)
  /-- The result of `SubmitTransaction`. -/
  | status (st : Status)
  deriving DecidableEq, Repr

/-- The controller's position in the bus protocol, so far as the rules name it (R37 e, R160, R183). The sequencer never
reads it. -/
inductive CtrlPoint where
  | idle
  /-- A start is on its way: it was idle and has seen `STA`, or has stopped with `STA` seen. -/
  | starting
  /-- It has raised this code and has not acted since. -/
  | reported (code : Byte)
  /-- `SI` has fallen after this code, and it acts on the values of `CON` and `DAT` it then saw (R160). -/
  | acting (code con dat : Byte)
  deriving DecidableEq, Repr

/-- What the controller does to the instance (R10, R25). -/
inductive CtrlAct where
  /-- It raises an event: sets `STAT`, makes the receive byte available, sets `SI` (R80). -/
  | raise (code rx : Byte)
  /-- It looks at `CON` and `DAT`, and acts from then on on what it saw (R160), touching no register. -/
  | look
  /-- It has acted on `STO`: clears it and is idle (R28). -/
  | finishStop
  /-- It has acted on `STO`: clears it and sends a start (R28, U10). -/
  | stopThenStart
  /-- It has no byte in flight and gives up the bus, touching no register. -/
  | goIdle
  deriving DecidableEq, Repr

/-- One turn: which agent takes the next step, with what the agent brings (R10, R57). -/
inductive Turn where
  /-- The interrupt context performs the event step of the pending event. -/
  | isr
  /-- The foreground performs the next micro-step of this host command. -/
  | host (i : Instr)
  /-- The controller acts. -/
  | ctrl (a : CtrlAct)
  deriving DecidableEq, Repr

/-- One instance: its record, the controller's registers it drives, and its hidden state (`10_state.md`). -/
structure State where
  record : TransactionRecord
  /-- `CON` (R25). -/
  con : Byte
  /-- `STAT` (R32). -/
  stat : Byte
  /-- `DAT` as written: the next byte the controller transmits (R33). -/
  datTx : Byte
  /-- `DAT` as read: the byte the controller has received (R33, R37 a). -/
  datRx : Byte
  /-- `DIV_LO` (R34). -/
  divLo : Nat
  /-- `DIV_HI` (R34). -/
  divHi : Nat
  /-- R37 b -/
  handlerRegistered : Bool
  /-- The fault latch (R37 c). -/
  fatal : Option Fault
  /-- R37 d -/
  host : HostPoint
  /-- R37 e -/
  ctrl : CtrlPoint
  /-- The last value a host command returned, an observable output of the block (R38). -/
  returned : Option HostReturn
  /-- R38, oldest item first. -/
  trace : List TraceItem
  /-- The model's own field: the turns the agents are going to take, the first one next. -/
  agenda : List Turn
  deriving DecidableEq, Repr

/-- The Transaction Record at reset: `busy` is false and no buffer is bound (R39).
DESIGN CHOICE (log entry 3): the other fields, which R39 leaves unspecified. -/
def TransactionRecord.reset : TransactionRecord where
  address   := 0
  operation := .write
  dataOut   := none
  outLength := 0
  dataIn    := none
  inLength  := 0
  position  := 0
  repeated  := false
  busy      := false
  status    := .success
  timeout   := 0

/-- The state before any host command (R39, R170): `I2EN` clear, no handler, no fault, the host idle, an empty trace.
DESIGN CHOICE (log entry 2): `CON` but for `I2EN`, `DAT`, the dividers.
PRESUMED (log entry 4): `STAT` reads 0xF8. DESIGN CHOICE (log entries 1, 13 and 16): the controller is idle, no turn is
to come, and no command has returned. -/
def State.reset : State where
  record := TransactionRecord.reset
  con    := 0x00#8
  stat   := 0xF8#8
  datTx  := 0x00#8
  datRx  := 0x00#8
  divLo  := 0
  divHi  := 0
  handlerRegistered := false
  fatal    := none
  host     := .idle
  ctrl     := .idle
  returned := none
  trace    := []
  agenda   := []

end Sys2Proof.Machine
end

