-- ==== Sys2Proof/Machine/Flags.lean ====
section
/-! DEFINITION. The control register's bits and masks (R25, R68): everything that computes a flag. -/

namespace Sys2Proof.Machine

/-- Assert-Acknowledge, bit 2 (R26). -/
def AA : Byte := 0x04#8
/-- Interrupt-flag, bit 3 (R27). -/
def SI : Byte := 0x08#8
/-- Stop, bit 4 (R28). -/
def STO : Byte := 0x10#8
/-- Start, bit 5 (R29). -/
def STA : Byte := 0x20#8
/-- Interface-Enable, bit 6 (R30). -/
def I2EN : Byte := 0x40#8

/-- A set-write: every bit that is 1 in the mask is set, the others stay (R25). -/
def setBits (c mask : Byte) : Byte := c ||| mask

/-- A clear-write: every bit that is 1 in the mask is cleared, the others stay (R25). -/
def clrBits (c mask : Byte) : Byte := c &&& ~~~mask

/-- `CON[2]`. -/
def State.aa (s : State) : Bool := s.con.getLsbD 2
/-- `CON[3]`: an event is pending (R27, R148). -/
def State.si (s : State) : Bool := s.con.getLsbD 3
/-- `CON[4]`. -/
def State.sto (s : State) : Bool := s.con.getLsbD 4
/-- `CON[5]`. -/
def State.sta (s : State) : Bool := s.con.getLsbD 5
/-- `CON[6]`, the bit `IsInitialized` reads (R30, R131). -/
def State.i2en (s : State) : Bool := s.con.getLsbD 6

/-- Event 0x40's masks (R110): they arm the acknowledge of byte 0. -/
def slarAckMasks (inLength : Nat) : Byte × Byte :=
  if inLength = 0 then (STO, SI ||| STA)
  else if inLength = 1 then (0x00#8, SI ||| STA ||| AA)
  else (AA, SI ||| STA)

/-- Event 0x50's look-ahead, on the cursor after the store: whether the next byte is the last, so that its acknowledge
is withheld (R112). -/
def withholdAck (position inLength : Nat) : Bool := decide (position + 1 ≥ inLength)

end Sys2Proof.Machine
end

