-- ==== Sys2Proof/Machine/Operands.lean ====
section
/-! DEFINITION. The values the block assembles: the address byte and the dividers (R71, R72). -/

namespace Sys2Proof.Machine

/-- The direction bit of an address byte (R71). -/
def rwBit : Direction → Byte
  | .write => 0x00#8
  | .read => 0x01#8

/-- `AddrByte(rec) = ((address[6:0] << 1) | rw)[7:0]` (R71). -/
def addrByte (r : TransactionRecord) : Byte :=
  (((r.address.setWidth 7).setWidth 8) <<< 1) ||| rwBit r.operation

/-- `Dividers(f)`: with `half = f // 75000 // 2` an exact rational, `lo = floor(half * 7 // 10)` and
`hi = floor(half * 13 // 10)` (R72, D12); each is one floor of a quotient of naturals. -/
def dividers (f : Nat) : Nat × Nat :=
  (f * 7 / (Config.targetFreq * 2 * 10), f * 13 / (Config.targetFreq * 2 * 10))

/-- The dividers of this frequency fit the divider registers (U15): a premise. No meaning tests it. -/
def dividersFit (f : Nat) : Prop := (dividers f).1 < 2 ^ Config.divW ∧ (dividers f).2 < 2 ^ Config.divW

/-- The token the call of the `k`-th instance carries, if it carries one (R7, R130, R154): each instance has its own
identifiers (R155). Whether two instances' tokens differ is left open (log entries 6, 14 and 17). -/
def CollabCall.token (k : Nat) : CollabCall → Option Nat
  | .setFunction _ => some (Config.pinFunction k)
  | .setOpenDrain _ => none
  | .setPullResistorNone _ => none
  | .powerUpPeripheral => some (Config.peripheralId k)
  | .register => some (Config.irqNumber k)

end Sys2Proof.Machine
end

