-- ==== Sys2Proof/Machine/Ops.lean ====
section
/-! DEFINITION. The named operations over memory and registers (R9), latching a fault, the frame of an event step and the
frame of a host micro-step. -/

namespace Sys2Proof.Machine

/-! ### Memory: the bytes of a buffer -/

/-- What an unlisted index reads as. Every index below a bound buffer's length holds the byte the host put there, so
this is how a byte 0x00 is written down, not an assumption about a buffer. -/
def Memory.unlisted : Byte := 0x00#8

/-- Read one byte. -/
def Memory.read : Memory → Nat → Byte
  | [], _ => Memory.unlisted
  | (a, b) :: m, i => if a = i then b else Memory.read m i

/-- Put an entry before the others, unless an unlisted index already reads so. -/
def Memory.cons (i : Nat) (v : Byte) (m : Memory) : Memory :=
  if v = Memory.unlisted then m else (i, v) :: m

/-- Write one byte, keeping the canonical form. -/
def Memory.write : Memory → Nat → Byte → Memory
  | [], i, v => Memory.cons i v []
  | (a, b) :: m, i, v =>
    if i < a then Memory.cons i v ((a, b) :: m)
    else if i = a then Memory.cons i v m
    else (a, b) :: Memory.write m i v

/-- The canonical form from an index on: indices strictly rise, and no entry holds the unlisted byte. -/
def Memory.wfFrom : Nat → Memory → Bool
  | _, [] => true
  | lo, (a, b) :: m => decide (lo ≤ a) && b != Memory.unlisted && Memory.wfFrom (a + 1) m

/-- The canonical form. -/
def Memory.wf (m : Memory) : Bool := Memory.wfFrom 0 m

/-- A byte sequence as the bytes of a buffer, from an index on. -/
def Memory.ofBytesFrom : Nat → List Byte → Memory
  | _, [] => []
  | i, b :: bs => Memory.cons i b (Memory.ofBytesFrom (i + 1) bs)

/-- A byte sequence as the bytes of a buffer (R50: index order is sequence order). -/
def Memory.ofBytes (bs : List Byte) : Memory := Memory.ofBytesFrom 0 bs

/-! ### The trace and the registers -/

/-- `emit` (R9, R38). -/
def State.emit (s : State) (x : TraceItem) : State := { s with trace := s.trace ++ [x] }

/-- `ConSet(m)` (R25). -/
def State.conSet (s : State) (m : Byte) : State := ({ s with con := setBits s.con m }).emit (.conSet m)

/-- `ConClr(m)` (R25). -/
def State.conClr (s : State) (m : Byte) : State := ({ s with con := clrBits s.con m }).emit (.conClr m)

/-- `DatWrite(v)` (R33). -/
def State.datWrite (s : State) (v : Byte) : State := ({ s with datTx := v }).emit (.datWrite v)

/-- `DivWrite(lo, hi)` (R34). -/
def State.divWrite (s : State) (d : Nat × Nat) : State :=
  ({ s with divLo := d.1, divHi := d.2 }).emit (.divWrite d.1 d.2)

/-! ### The Transaction Record -/

/-- `rec.busy <- b`. -/
def State.setBusy (s : State) (b : Bool) : State := { s with record := { s.record with busy := b } }

/-- `rec.status <- v`. -/
def State.setStatus (s : State) (v : Status) : State := { s with record := { s.record with status := v } }

/-- `rec.operation <- d`. -/
def State.setOperation (s : State) (d : Direction) : State := { s with record := { s.record with operation := d } }

/-- `rec.position <- p`. -/
def State.setPosition (s : State) (p : Nat) : State := { s with record := { s.record with position := p } }

/-- The record `SubmitTransaction` installs (R132, S2; D5, D6). -/
def installRecord (t : Submission) : TransactionRecord where
  address   := t.address
  operation := t.direction
  dataOut   := some (Memory.ofBytes t.outBuffer)
  outLength := t.outBuffer.length
  dataIn    := some (Memory.ofBytes t.inBuffer)
  inLength  := t.inBuffer.length
  position  := 0
  repeated  := t.repeated
  busy      := true
  status    := .success
  timeout   := t.timeout

/-! ### Buffer accesses -/

/-- `MemRead(OUT+i, 1)`, admitted only below the length of a bound buffer (R46, R48). -/
def State.memRead (s : State) (i : Nat) : Except Fault Byte :=
  match s.record.dataOut with
  | some m => if i < s.record.outLength then .ok (m.read i) else .error (.bufferBounds .out i s.record.outLength)
  | none => .error (.bufferBounds .out i s.record.outLength)

/-- `MemWrite(IN+i, 1, v)`, admitted only below the length of a bound buffer (R47, R48). -/
def State.memWrite (s : State) (i : Nat) (v : Byte) : Except Fault State :=
  match s.record.dataIn with
  | some m =>
    if i < s.record.inLength then
      .ok (({ s with record := { s.record with dataIn := some (m.write i v) } }).emit (.memWrite i v))
    else .error (.bufferBounds .in i s.record.inLength)
  | none => .error (.bufferBounds .in i s.record.inLength)

/-- "write next output byte, advance position" (R76). -/
def State.sendNext (s : State) : Except Fault State :=
  match s.memRead s.record.position with
  | .ok v =>
    .ok (((s.emit (.memRead s.record.position v)).datWrite v).setPosition (s.record.position + 1))
  | .error f => .error f

/-- "store byte, advance position" (R76). The access is refused before `DAT` is read: a refused store leaves no
`DatRead` in the trace (vector V34). -/
def State.storeNext (s : State) : Except Fault State :=
  match (s.emit (.datRead s.datRx)).memWrite s.record.position s.datRx with
  | .ok s' => .ok (s'.setPosition (s.record.position + 1))
  | .error f => .error f

/-! ### Taking a fault -/

/-- A fault: the latch is set and recorded, and every effect that precedes it stands (R143 to R145, D33).
Nothing is saved and nothing is restored: a latched fault has no return (R150, R151). -/
def State.latch (s : State) (f : Fault) : State := ({ s with fatal := some f }).emit (.fault f)

/-! ### The event step -/

/-- What the row of an event ends in. -/
inductive RowResult where
  /-- The row is done; the frame applies these masks. -/
  | done (s : State) (set clr : Byte)
  /-- The row raised a fault; the frame applies no mask. -/
  | raised (s : State) (f : Fault)
  deriving DecidableEq, Repr

/-- An event step is enabled while a handler is registered and an event is pending (R80); the fault latch is tested
beside it. -/
def State.eventEnabled (s : State) : Bool := s.handlerRegistered && s.si

/-- The end of an event step (R81, R83): the set-write, then the clear-write, which clears `SI` and is the return from the
interrupt (R151); or the latched fault, with no mask applied (R88). -/
def finishEvent : RowResult → State
  | .done s set clr => (s.conSet set).conClr clr
  | .raised s f => s.latch f

/-- The event step for one status code (R81): enabled by R80, it reads the code, runs the code's row and applies the
masks the row built. -/
def eventStep (code : Byte) (row : State → RowResult) (s : State) : Host.Outcome State Fault Refusal :=
  match s.fatal with
  | some f => .fault f
  | none =>
    if s.eventEnabled then .next (finishEvent (row (s.emit (.statRead code))))
    else .refused .eventNotEnabled

/-- The instruction of the pending event: the code in `STAT`, decoded (R81). -/
def State.pendingInstr (s : State) : Instr := decodeByte s.stat

/-! ### Host micro-steps -/

/-- A host micro-step is enabled only while no fault is latched (R37 c, D34). -/
def hostStep (body : State → Host.Outcome State Fault Refusal) (s : State) : Host.Outcome State Fault Refusal :=
  match s.fatal with
  | some f => .fault f
  | none => body s

/-- The foreground goes on to another micro-step. -/
def State.goto (s : State) (h : HostPoint) : State := { s with host := h }

/-- A host command returns to its caller. -/
def State.giveBack (s : State) (r : HostReturn) : State := { s with host := .idle, returned := some r }

/-- Quiescence (R183): the host idle, no event pending, the controller idle with the last `STO` acted on, no fault. -/
def State.quiescent (s : State) : Bool :=
  s.host == .idle && !s.si && s.ctrl == .idle && !s.sto && s.fatal == none

end Sys2Proof.Machine
end

