-- ==== Sys2Proof/Machine/Controller.lean ====
section
/-! DEFINITION. The controller as an agent: what it does to the instance (R10, R25, R27, R28, R80). -/

namespace Sys2Proof.Machine

/-- What a look at the control bits and `DAT` makes of the controller's position (R160). -/
def State.lookedAt (s : State) : CtrlPoint :=
  match s.ctrl with
  | .idle => .starting
  | .reported c => .acting c s.con s.datTx
  | .starting => .starting
  | .acting c con dat => .acting c con dat

/-- The controller's turn. Its writes are no items of the trace, which records the block's own steps (R38). -/
def ctrlStep (a : CtrlAct) (s : State) : Host.Outcome State Fault Refusal :=
  match a with
  | .raise code rx =>
    if s.si then .refused .eventWhilePending
    else .next { s with stat := code, datRx := rx, con := setBits s.con SI, ctrl := .reported code }
  | .look => .next { s with ctrl := s.lookedAt }
  | .finishStop => .next { s with con := clrBits s.con STO, ctrl := .idle }
  | .stopThenStart => .next { s with con := clrBits s.con STO, ctrl := .starting }
  | .goIdle => .next { s with ctrl := .idle }

end Sys2Proof.Machine
end

