-- ==== Sys2Proof/Machine/BusEvents.lean ====
section
/-! DEFINITION. Bus-condition events: 0x00, 0x08, 0x10, 0x38 (`41_bus_condition_events.md`). -/

namespace Sys2Proof.Machine

/-- R90: "status=BusError; assert ACK+STOP". `busy` and `STA` stay. -/
def rowBusError (s : State) : RowResult := .done (s.setStatus .busError) (AA ||| STO) SI

/-- `EV_BUS_ERROR` (R90). -/
def execBusError (s : State) : Host.Outcome State Fault Refusal := eventStep 0x00#8 rowBusError s

/-- R91: "write address+direction byte to data register". -/
def rowStart (s : State) : RowResult := .done (s.datWrite (addrByte s.record)) 0x00#8 SI

/-- `EV_START` (R91). -/
def execStart (s : State) : Host.Outcome State Fault Refusal := eventStep 0x08#8 rowStart s

/-- The phase is forced to `Read`, then the address byte is written, its direction bit 1 (R92). -/
def switchAndAddress (s : State) : State :=
  let s' := s.setOperation .read
  s'.datWrite (addrByte s'.record)

/-- R92: "operation←Read; write address+direction byte". -/
def rowRepStart (s : State) : RowResult := .done (switchAndAddress s) 0x00#8 SI

/-- `EV_REP_START` (R92). -/
def execRepStart (s : State) : Host.Outcome State Fault Refusal := eventStep 0x10#8 rowRepStart s

/-- R93: "assert START (retry)". The cursor is kept. -/
def rowArbLost (s : State) : RowResult := .done s STA SI

/-- `EV_ARB_LOST` (R93). -/
def execArbLost (s : State) : Host.Outcome State Fault Refusal := eventStep 0x38#8 rowArbLost s

end Sys2Proof.Machine
end

