-- ==== Sys2Proof/Machine/HostCommands.lean ====
section
/-! DEFINITION. Host commands (`45_host_commands.md`). Executing one performs the micro-step the foreground stands at, so
that turns of the other agents may fall between any two (R57). -/

namespace Sys2Proof.Machine

/-! ### Initialize (R130) -/

/-- The six pin-configuration calls of I1, in order. -/
def pinCalls : List CollabCall :=
  [.setFunction .data, .setOpenDrain .data, .setPullResistorNone .data,
   .setFunction .clock, .setOpenDrain .clock, .setPullResistorNone .clock]

/-- What I1 leaves in the trace: each call with its answer, up to the first that fails (R154, D13). -/
def pinItems : Option (Fin 6) → List TraceItem
  | none => pinCalls.map fun c => .collab c .ok
  | some k =>
    ((pinCalls.take k).map fun c => .collab c .ok) ++ (((pinCalls.drop k).take 1).map fun c => .collab c .failure)

/-- I1: configure both bus lines. -/
def initPins (a : InitAnswers) (s : State) : State :=
  let s' := { s with trace := s.trace ++ pinItems a.pinFailure }
  match a.pinFailure with
  | none => s'.goto .initPower
  | some _ => s'.giveBack .failure

/-- I2: power the peripheral. -/
def initPower (a : InitAnswers) (s : State) : State :=
  match a.power with
  | some f => (s.emit (.collab .powerUpPeripheral (.frequency f))).goto (.initDividers f)
  | none => (s.emit (.collab .powerUpPeripheral .failure)).giveBack .failure

/-- I3: program the dividers. -/
def initDividers (f : Nat) (s : State) : State := (s.divWrite (dividers f)).goto .initClear

/-- I4: clear the stale control bits, mask 0x3C (D11). -/
def initClear (s : State) : State := (s.conClr (AA ||| SI ||| STO ||| STA)).goto .initEnable

/-- I5: enable the interface, mask 0x40. -/
def initEnable (s : State) : State := (s.conSet I2EN).goto .initRegister

/-- I6: register the Interrupt Handler. -/
def initRegister (a : InitAnswers) (s : State) : State :=
  if a.registerOk then ({ s with handlerRegistered := true }.emit (.collab .register .ok)).giveBack .ok
  else (s.emit (.collab .register .failure)).giveBack .failure

/-- Whether `Initialize` is accepted from an idle host: not while a transaction is live or its tail outstanding (R130
corner b, U11). DEDUCED (log entry 8): while `I2EN` is clear no submission has passed its guard (R132), so there is none
to disturb, and a stale `SI` does not keep the first `Initialize` out (vector V38). -/
def State.initialiseAdmitted (s : State) : Bool := !s.i2en || s.quiescent

/-- `INITIALIZE` (R130). -/
def execInitialise (a : InitAnswers) (s : State) : Host.Outcome State Fault Refusal :=
  hostStep (fun s =>
    match s.host with
    | .idle => if s.initialiseAdmitted then .next (initPins a s) else .refused .initialiseNotQuiescent
    | .initPower => .next (initPower a s)
    | .initDividers f => .next (initDividers f s)
    | .initClear => .next (initClear s)
    | .initEnable => .next (initEnable s)
    | .initRegister => .next (initRegister a s)
    | _ => .refused .callOutstanding) s

/-! ### IsInitialized (R131) -/

/-- `IS_INITIALIZED` (R131): "reflects whether the interface-enable control bit is currently set". -/
def execIsInitialized (s : State) : Host.Outcome State Fault Refusal :=
  hostStep (fun s =>
    match s.host with
    | .idle => .next (s.giveBack (.flag s.i2en))
    | _ => .refused .callOutstanding) s

/-! ### SubmitTransaction (R132) -/

/-- S1, the guard: fails fast before `Initialize` (R144). -/
def submitGuard (t : Submission) (s : State) : State :=
  if s.i2en then s.goto (.submitInstall t) else s.latch .notInitialized

/-- S2: install the whole record. -/
def submitInstall (t : Submission) (s : State) : State := { s with record := installRecord t }.goto (.submitStart t)

/-- S3: assert START. -/
def submitStart (s : State) : State := (s.conSet STA).goto .waiting

/-- `SUBMIT_TRANSACTION` (R132). A second submission inside the call is refused (R173, U3). -/
def execSubmitTransaction (t : Submission) (s : State) : Host.Outcome State Fault Refusal :=
  hostStep (fun s =>
    match s.host with
    | .idle => if t.address ≤ 0x7F#10 then .next (submitGuard t s) else .refused .addressAbove7F
    | .submitInstall t' => if t = t' then .next (submitInstall t s) else .refused .callOutstanding
    | .submitStart t' => if t = t' then .next (submitStart s) else .refused .callOutstanding
    | _ => .refused .callOutstanding) s

/-! ### The Blocking Synchronizer (R134 to R136) -/

/-- W: `busy` is tested first, and the deadline oracle only if it is true (R134, D16). -/
def waitOnce (deadlineElapsed : Bool) (s : State) : State :=
  if s.record.busy then
    if deadlineElapsed then s.goto .abortStop else s
  else s.goto .returnClear

/-- `WAIT` (R134). -/
def execWait (deadlineElapsed : Bool) (s : State) : Host.Outcome State Fault Refusal :=
  hostStep (fun s =>
    match s.host with
    | .waiting => .next (waitOnce deadlineElapsed s)
    | _ => .refused .hostElsewhere) s

/-- A4: warn if both lengths are nonzero; nothing else (R135, R156). -/
def abortWarn (s : State) : State :=
  if s.record.outLength ≠ 0 ∧ s.record.inLength ≠ 0 then (s.emit .warningMultiPhaseTimeout).goto .returnClear
  else s.goto .returnClear

/-- `TIMEOUT_ABORT` (R135): A1 `ConSet(STO)`, A2 `ConClr(AA)`, A3 the status, A4 the warning. -/
def execTimeoutAbort (s : State) : Host.Outcome State Fault Refusal :=
  hostStep (fun s =>
    match s.host with
    | .abortStop => .next ((s.conSet STO).goto .abortNack)
    | .abortNack => .next ((s.conClr AA).goto .abortStatus)
    | .abortStatus => .next ((s.setStatus .timedOut).goto .abortWarn)
    | .abortWarn => .next (abortWarn s)
    | _ => .refused .hostElsewhere) s

/-- F2: the status as it stands now is handed to the caller (R136). -/
def returnRead (s : State) : State :=
  (s.emit (.returned s.record.status)).giveBack (.status s.record.status)

/-- `RETURN` (R136): F1 clears START always, F2 returns the status. -/
def execReturnStatus (s : State) : Host.Outcome State Fault Refusal :=
  hostStep (fun s =>
    match s.host with
    | .returnClear => .next ((s.conClr STA).goto .returnRead)
    | .returnRead => .next (returnRead s)
    | _ => .refused .hostElsewhere) s

end Sys2Proof.Machine
end

