-- ==== Sys2Proof/Machine/OtherEvents.lean ====
section
/-! DEFINITION. No-action and unknown events: 0xA0, 0xF8 and every other code (`44_noaction_and_unknown_events.md`). -/

namespace Sys2Proof.Machine

/-- R120: "no action (unsupported mode)"; the frame clears `SI`. -/
def rowSlaveAddr (s : State) : RowResult := .done s 0x00#8 SI

/-- `EV_SLAVE_ADDR` (R120). -/
def execSlaveAddr (s : State) : Host.Outcome State Fault Refusal := eventStep 0xA0#8 rowSlaveAddr s

/-- R121: "no action"; the frame clears `SI`. -/
def rowNoState (s : State) : RowResult := .done s 0x00#8 SI

/-- `EV_NO_STATE` (R121). -/
def execNoState (s : State) : Host.Outcome State Fault Refusal := eventStep 0xF8#8 rowNoState s

/-- R122: "fatal: unreachable hardware state, report as fatal internal error". -/
def rowUnknown (code : Byte) (s : State) : RowResult := .raised s (.internalFatal code)

/-- `EV_UNKNOWN` (R122). -/
def execUnknown (code : Byte) (s : State) : Host.Outcome State Fault Refusal := eventStep code (rowUnknown code) s

end Sys2Proof.Machine
end

