-- ==== Sys2Proof/Machine/ReceiveEvents.lean ====
section
/-! DEFINITION. Receive events: 0x40, 0x48, 0x50, 0x58 (`43_receive_events.md`). -/

namespace Sys2Proof.Machine

/-- R110: "clear START; if in_length==0: assert STOP; elif in_length==1: clear ACK-assert (NACK the lone incoming byte);
else assert ACK". No record field is written in any branch. -/
def rowSlarAck (s : State) : RowResult :=
  .done s (slarAckMasks s.record.inLength).1 (slarAckMasks s.record.inLength).2

/-- `EV_SLAR_ACK` (R110). -/
def execSlarAck (s : State) : Host.Outcome State Fault Refusal := eventStep 0x40#8 rowSlarAck s

/-- R111: "clear START; status←DeviceNotFound; busy←false; assert STOP". -/
def rowSlarNack (s : State) : RowResult :=
  .done ((s.setStatus .deviceNotFound).setBusy false) STO (SI ||| STA)

/-- `EV_SLAR_NACK` (R111). -/
def execSlarNack (s : State) : Host.Outcome State Fault Refusal := eventStep 0x48#8 rowSlarNack s

/-- The second test of row 0x50, on the cursor the first one left (R112). -/
def lookAhead (s : State) : RowResult :=
  if withholdAck s.record.position s.record.inLength then .done (s.setBusy false) 0x00#8 (SI ||| AA)
  else .done s AA SI

/-- R112: "if position<in_length: store byte, advance position; if position+1>=in_length: clear ACK-assert, busy←false;
else assert ACK (ack next byte)". The two tests are sequential (C1). -/
def rowRxdataAck (s : State) : RowResult :=
  if s.record.position < s.record.inLength then
    match s.storeNext with
    | .ok s' => lookAhead s'
    | .error f => .raised s f
  else lookAhead s

/-- `EV_RXDATA_ACK` (R112). -/
def execRxdataAck (s : State) : Host.Outcome State Fault Refusal := eventStep 0x50#8 rowRxdataAck s

/-- R113: "busy←false; if in_length!=0: store final byte, advance position; assert STOP". The cursor is not tested, so the
access may raise `BufferBounds`, and `busy` is then false all the same. -/
def rowRxdataNack (s : State) : RowResult :=
  let s' := s.setBusy false
  if s'.record.inLength ≠ 0 then
    match s'.storeNext with
    | .ok s'' => .done s'' STO SI
    | .error f => .raised s' f
  else .done s' STO SI

/-- `EV_RXDATA_NACK` (R113). -/
def execRxdataNack (s : State) : Host.Outcome State Fault Refusal := eventStep 0x58#8 rowRxdataNack s

end Sys2Proof.Machine
end

