-- ==== Sys2Proof/Machine/TransmitEvents.lean ====
section
/-! DEFINITION. Transmit events: 0x18, 0x20, 0x28, 0x30 (`42_transmit_events.md`). -/

namespace Sys2Proof.Machine

/-- R100: "clear START; if out_length==0: busy←false, status←Success, assert STOP; else write next output byte, advance
position". The cursor is not tested, so the access may raise `BufferBounds`. -/
def rowSlawAck (s : State) : RowResult :=
  if s.record.outLength = 0 then
    .done ((s.setBusy false).setStatus .success) STO (SI ||| STA)
  else
    match s.sendNext with
    | .ok s' => .done s' 0x00#8 (SI ||| STA)
    | .error f => .raised s f

/-- `EV_SLAW_ACK` (R100). -/
def execSlawAck (s : State) : Host.Outcome State Fault Refusal := eventStep 0x18#8 rowSlawAck s

/-- R101: "clear START; busy←false; status←DeviceNotFound; assert STOP". -/
def rowSlawNack (s : State) : RowResult :=
  .done ((s.setBusy false).setStatus .deviceNotFound) STO (SI ||| STA)

/-- `EV_SLAW_NACK` (R101). -/
def execSlawNack (s : State) : Host.Outcome State Fault Refusal := eventStep 0x20#8 rowSlawNack s

/-- R102: "if position>=out_length: if repeated, switch to Read phase (position←0, assert START) else busy←false, assert
STOP; else write next byte, advance position". The status is not written. -/
def rowTxdataAck (s : State) : RowResult :=
  if s.record.position ≥ s.record.outLength then
    if s.record.repeated then .done ((s.setOperation .read).setPosition 0) STA SI
    else .done (s.setBusy false) STO SI
  else
    match s.sendNext with
    | .ok s' => .done s' 0x00#8 SI
    | .error f => .raised s f

/-- `EV_TXDATA_ACK` (R102). -/
def execTxdataAck (s : State) : Host.Outcome State Fault Refusal := eventStep 0x28#8 rowTxdataAck s

/-- R103: "busy←false; assert STOP". The status is not written. -/
def rowTxdataNack (s : State) : RowResult := .done (s.setBusy false) STO SI

/-- `EV_TXDATA_NACK` (R103). -/
def execTxdataNack (s : State) : Host.Outcome State Fault Refusal := eventStep 0x30#8 rowTxdataNack s

end Sys2Proof.Machine
end

