-- ==== Sys2Proof/Machine/Dispatch.lean ====
section
/-! DEFINITION. The dispatch: one arm per instruction, each one direct call of its meaning. -/

namespace Sys2Proof.Machine

def exec (i : Instr) (s : State) : Host.Outcome State Fault Refusal :=
  match i with
  | .busError => Sys2Proof.Machine.execBusError s
  | .start => Sys2Proof.Machine.execStart s
  | .repStart => Sys2Proof.Machine.execRepStart s
  | .slawAck => Sys2Proof.Machine.execSlawAck s
  | .slawNack => Sys2Proof.Machine.execSlawNack s
  | .txdataAck => Sys2Proof.Machine.execTxdataAck s
  | .txdataNack => Sys2Proof.Machine.execTxdataNack s
  | .arbLost => Sys2Proof.Machine.execArbLost s
  | .slarAck => Sys2Proof.Machine.execSlarAck s
  | .slarNack => Sys2Proof.Machine.execSlarNack s
  | .rxdataAck => Sys2Proof.Machine.execRxdataAck s
  | .rxdataNack => Sys2Proof.Machine.execRxdataNack s
  | .slaveAddr => Sys2Proof.Machine.execSlaveAddr s
  | .noState => Sys2Proof.Machine.execNoState s
  | .unknown code => Sys2Proof.Machine.execUnknown code s
  | .initialise answers => Sys2Proof.Machine.execInitialise answers s
  | .isInitialized => Sys2Proof.Machine.execIsInitialized s
  | .submitTransaction t => Sys2Proof.Machine.execSubmitTransaction t s
  | .wait deadlineElapsed => Sys2Proof.Machine.execWait deadlineElapsed s
  | .timeoutAbort => Sys2Proof.Machine.execTimeoutAbort s
  | .returnStatus => Sys2Proof.Machine.execReturnStatus s

end Sys2Proof.Machine
end

