-- ==== Sys2Proof/Machine/Step.lean ====
section
/-! DEFINITION. One step of the machine: the agent whose turn it is takes one step (R10, R57), and the placing of an event
for the next step. -/

namespace Sys2Proof.Machine

/-- The agent of a turn takes its step: the interrupt context performs the pending event, the foreground the next
micro-step of its command, the controller its act. -/
def takeTurn (t : Turn) (s : State) : Host.Outcome State Fault Refusal :=
  match t with
  | .isr => exec s.pendingInstr s
  | .host i => if i.isEvent then .refused .notHostCommand else exec i s
  | .ctrl a => ctrlStep a s

/-- One step. A latched fault stops the instance for good (R37 c, R143).
With no turn to take the machine does nothing (R170). -/
def step (s : State) : Host.Outcome State Fault Refusal :=
  match s.fatal with
  | some f => .fault f
  | none =>
    match s.agenda with
    | [] => .next s
    | t :: rest => takeTurn t { s with agenda := rest }

/-- The event with this status code pending and the interrupt context's turn next: what R80 asks of an enabled event
step. A word with no status byte places nothing. -/
def State.withFetchWord (s : State) (nbits w : Nat) : State :=
  match wordBytes nbits w with
  | [] => s
  | code :: _ =>
    { s with
      stat := code
      con := setBits s.con SI
      handlerRegistered := true
      fatal := none
      agenda := .isr :: s.agenda }

end Sys2Proof.Machine
end

