-- ==== Sys2Proof/Machine/System.lean ====
section
/-! DEFINITION. Several instances: the product of copies of one, with any interleaving of their steps (R24, R155). -/

namespace Sys2Proof.Machine

/-- The instances of the chip. -/
abbrev System := List State

/-- Every instance at reset. -/
def System.reset : System := List.replicate Config.nInstances State.reset

/-- The token an instance of the chip hands over with a call, its own by its index (R24, R155; log entry 17). -/
def systemToken (sys : System) (k : Fin sys.length) (c : CollabCall) : Option Nat := c.token k.val

/-- One step of one instance; the others do not move. -/
def systemStep (sys : System) (k : Fin sys.length) : Host.Outcome System Fault Refusal :=
  match step (sys.get k) with
  | .next s => .next (sys.set k s)
  | .fault f => .fault f
  | .refused r => .refused r

end Sys2Proof.Machine
end

