-- ==== Sys2Proof/Safety.lean ====
section
/-! DEFINITION. The terms statements are made in: when an instruction is enabled, the state an event step leaves, what a
well-kept state is, and the premises on the controller and on a run. -/

namespace Sys2Proof.Machine

/-! ### When an instruction is enabled -/

/-- An event step is enabled (R80): a handler is registered, `SI` is set, no fault is latched. -/
def EventReady (s : State) : Prop :=
  s.handlerRegistered = true ∧ s.con.getLsbD 3 = true ∧ s.fatal = none

/-- The foreground stands at this point of its commands, and no fault is latched (R37). -/
def HostAt (h : HostPoint) (s : State) : Prop := s.host = h ∧ s.fatal = none

/-! ### What an event step leaves -/

/-- The frame of an event step with this code and these masks, and these items between the `StatRead` and the mask writes
(R81, R83): `CON` is set, then cleared, and nothing but `CON` and the trace is written. -/
def afterEvent (s : State) (code set clr : Byte) (items : List TraceItem) : State :=
  { s with
    con := (s.con ||| set) &&& ~~~clr
    trace := s.trace ++ ([.statRead code] ++ items ++ [.conSet set, .conClr clr]) }

/-- The frame of an event step that raises a fault (R88): the fault is latched and `CON` is as it was. -/
def afterFault (s : State) (code : Byte) (f : Fault) : State :=
  { s with fatal := some f, trace := s.trace ++ [.statRead code, .fault f] }

/-! ### Well-kept states -/

/-- A buffer's bytes are in canonical form and lie below its length. -/
def bufferKept (length : Nat) : Option Memory → Bool
  | none => true
  | some m => m.wf && m.all fun e => decide (e.1 < length)

/-- The foreground has passed the guard S1 or stands before I6: the interface is enabled (R132, R172). -/
def HostPoint.pastEnable : HostPoint → Bool
  | .initRegister | .submitInstall _ | .submitStart _ | .waiting
  | .abortStop | .abortNack | .abortStatus | .abortWarn | .returnClear | .returnRead => true
  | .idle | .initPower | .initDividers _ | .initClear | .initEnable => false

/-- The submission the foreground has yet to install has a 7-bit address (R12). -/
def HostPoint.addressLegal : HostPoint → Bool
  | .submitInstall t => decide (t.address ≤ 0x7F#10)
  | _ => true

/-- What holds at reset and every step keeps. -/
structure State.Kept (s : State) : Prop where
  /-- `data_out` is in canonical form, below `out_length`. -/
  outKept : bufferKept s.record.outLength s.record.dataOut = true
  /-- `data_in` is in canonical form, below `in_length`. -/
  inKept : bufferKept s.record.inLength s.record.dataIn = true
  /-- The cursor never exceeds both lengths (R22, R36). -/
  cursor : s.record.position ≤ max s.record.outLength s.record.inLength
  /-- The record's address has a meaning (R12). -/
  address : s.record.address ≤ 0x7F#10
  /-- So has the address about to be installed. -/
  hostAddress : s.host.addressLegal = true
  /-- `InProgress` is never written (R20). -/
  status : s.record.status ≠ .inProgress
  /-- The interface is enabled before any event can be delivered (R172). -/
  handlerEnabled : s.handlerRegistered = true → s.con.getLsbD 6 = true
  /-- And it is enabled from the guard of a submission on (R132). -/
  hostEnabled : s.host.pastEnable = true → s.con.getLsbD 6 = true

/-! ### The controller as a premise (R160) -/

/-- A code of the controller's slave modes: 0xA0, or a further one, unknown to the sequencer (R160). -/
def slaveCode (code : Byte) : Bool := code == 0xA0#8 || !namedCodes.contains code

/-- The code a controller raises next that has reported `c` and acts on the values of `CON` and `DAT` it saw after `SI` fell
(R160, one line per row of its table). -/
def raisesNext (c con dat code : Byte) : Bool :=
  if c = 0x08#8 ∨ c = 0x10#8 then
    !con.getLsbD 4 && (code == 0x38#8 ||
      if dat.getLsbD 0 then code == 0x40#8 || code == 0x48#8 else code == 0x18#8 || code == 0x20#8)
  else if c = 0x18#8 ∨ c = 0x28#8 then
    !con.getLsbD 4 &&
      if con.getLsbD 5 then code == 0x10#8 else code == 0x28#8 || code == 0x30#8 || code == 0x38#8
  else if c = 0x40#8 ∨ c = 0x50#8 then
    !con.getLsbD 4 &&
      if con.getLsbD 5 then code == 0x10#8 else if con.getLsbD 2 then code == 0x50#8 else code == 0x58#8
  else if c = 0x38#8 then con.getLsbD 5 && code == 0x08#8
  else slaveCode c && slaveCode code

/-- Whether the controller, in the position it is in, may raise this code (R160; general knowledge, G2): a premise of a
statement, never a rule of the block. 0x00 it may raise at any time. -/
def conformantRaise (s : State) (code : Byte) : Bool :=
  code == 0x00#8 ||
  match s.ctrl with
  | .idle => s.aa && slaveCode code
  | .starting => code == 0x08#8
  | .reported _ => false
  | .acting c con dat => raisesNext c con dat code

/-- `ConformantController` for one act (R160): the controller acts only once `SI` has fallen, on the values it then sees. It
starts from idle only where `STA` and `I2EN` are set, clears `STO` only where it is set, and where it sees `STA` and
`STO` both set it stops, then starts (U10). Log entry 13 says where this admits more than the table. -/
def conformantAct (s : State) (a : CtrlAct) : Bool :=
  !s.si &&
  match a with
  | .raise code _ => conformantRaise s code
  | .look => s.ctrl != .idle || (s.sta && s.i2en)
  | .finishStop => s.sto
  | .stopThenStart =>
    match s.ctrl with
    | .acting _ con _ => s.sto && con.getLsbD 4 && con.getLsbD 5
    | .idle | .starting | .reported _ => false
  | .goIdle =>
    match s.ctrl with
    | .acting c _ _ => slaveCode c
    | .idle | .starting | .reported _ => false

/-- A turn of a run in which a started transaction is left to itself: the controller conforms, loses no arbitration and
reports no slave code that is unknown to the sequencer, and the foreground makes neither a new submission nor an
`Initialize`. -/
def calmTurn (s : State) : Turn → Bool
  | .isr => true
  | .host (.submitTransaction _) => false
  | .host (.initialise _) => false
  | .host _ => true
  | .ctrl (.raise code rx) => conformantAct s (.raise code rx) && code != 0x38#8 && namedCodes.contains code
  | .ctrl a => conformantAct s a

/-- The next turn, if there is one, is calm. -/
def calmNext (s : State) : Bool :=
  match s.agenda with
  | [] => true
  | t :: _ => calmTurn s t

/-- Every one of the next `n` steps is calm. -/
def calmRun : Nat → State → Prop
  | 0, _ => True
  | n + 1, s => calmNext s = true ∧ ∀ s', step s = .next s' → calmRun n s'

/-- A transaction was just started on an idle controller: the cursor at 0, both buffers bound, nothing pending. -/
structure State.Started (s : State) : Prop where
  noFault : s.fatal = none
  ctrlIdle : s.ctrl = .idle
  notPending : s.con.getLsbD 3 = false
  cursorZero : s.record.position = 0
  outBound : s.record.dataOut ≠ none
  inBound : s.record.dataIn ≠ none

/-- What a calm run keeps true from its start: where the controller and the cursor stand to each other, so that the
accesses rows 0x18 and 0x58 make without a test stay in range (R48). -/
structure State.Undisturbed (s : State) : Prop where
  noFault : s.fatal = none
  outBound : s.record.dataOut ≠ none
  inBound : s.record.dataIn ≠ none
  /-- A requested start finds the cursor at 0. -/
  startAtZero : s.sta = true → s.record.position = 0
  /-- Nothing is pending while the controller is idle. -/
  idleQuiet : s.ctrl = .idle → s.si = false
  /-- Nor while a start is on its way, and the start finds the cursor at 0. -/
  starting : s.ctrl = .starting → s.si = false ∧ s.record.position = 0
  /-- What was reported has a name, and no arbitration was lost (a retry does not reset the cursor, R93). -/
  reportedNamed : ∀ c, s.ctrl = .reported c → namedCodes.contains c = true ∧ c ≠ 0x38#8
  /-- What is pending is what the controller reported last. -/
  pending : ∀ c, s.ctrl = .reported c → s.si = true → s.stat = c
  /-- A data event is pending only with no start requested. -/
  dataNoStart : ∀ c, s.ctrl = .reported c → s.si = true → (c = 0x28#8 ∨ c = 0x50#8 ∨ c = 0x58#8) → s.sta = false
  /-- The address phase stands at cursor 0. -/
  addressPhase : s.ctrl = .reported 0x08#8 ∨ s.ctrl = .reported 0x10#8 → s.record.position = 0
  /-- The result of a write address finds the cursor at 0. -/
  slawPending : s.ctrl = .reported 0x18#8 → s.si = true → s.record.position = 0
  /-- The result of a read address finds the cursor at 0, and arms `AA` only if two bytes or more are to come. -/
  slarPhase : s.ctrl = .reported 0x40#8 → s.record.position = 0 ∧
    (s.si = false → s.sto = false → s.aa = true → 2 ≤ s.record.inLength)
  /-- A byte that is acknowledged is not the last. -/
  rxPending : s.ctrl = .reported 0x50#8 → s.si = true → s.record.position + 1 < s.record.inLength
  /-- After it one byte at least is to come, and `AA` is armed only if more are. -/
  rxServed : s.ctrl = .reported 0x50#8 → s.si = false →
    s.record.position < s.record.inLength ∧ (s.aa = true → s.record.position + 1 < s.record.inLength)
  /-- The byte that is not acknowledged has room. -/
  lastPending : s.ctrl = .reported 0x58#8 → s.si = true → s.record.inLength ≠ 0 → s.record.position < s.record.inLength
  /-- While the controller acts nothing is pending and no arbitration was lost; a start that was not requested when it
  looked is not requested now, and one that was finds the cursor at 0. -/
  acting : ∀ c con dat, s.ctrl = .acting c con dat → s.si = false ∧ c ≠ 0x38#8 ∧
    (s.sta = true → con.getLsbD 5 = true) ∧ (con.getLsbD 5 = true → s.record.position = 0)
  /-- The address byte is sent at cursor 0. -/
  addressActing : ∀ c con dat, s.ctrl = .acting c con dat → c = 0x08#8 ∨ c = 0x10#8 → s.record.position = 0
  /-- The first byte is received at cursor 0, and acknowledged only if two or more are to come. -/
  slarActing : ∀ con dat, s.ctrl = .acting 0x40#8 con dat → s.record.position = 0 ∧
    (con.getLsbD 4 = false → con.getLsbD 2 = true → 2 ≤ s.record.inLength)
  /-- A further byte has room, and is acknowledged only if more are to come. -/
  rxActing : ∀ con dat, s.ctrl = .acting 0x50#8 con dat → s.record.position < s.record.inLength ∧
    (con.getLsbD 2 = true → s.record.position + 1 < s.record.inLength)

/-! ### Delivering events -/

/-- Each event raised by the controller, with its receive byte, and served before the next. -/
def deliver (events : List (Byte × Byte)) : List Turn :=
  events.flatMap fun e => [.ctrl (.raise e.1 e.2), .isr]

/-- The bytes written to `DAT`, in order (R38). -/
def datWrites (items : List TraceItem) : List Byte :=
  items.filterMap fun x => match x with
    | .datWrite v => some v
    | _ => none

/-- The statuses returned to the host, in order (R38). -/
def returnedStatuses (items : List TraceItem) : List Status :=
  items.filterMap fun x => match x with
    | .returned st => some st
    | _ => none

end Sys2Proof.Machine
end

