-- ==== Sys2Proof/Certificates/Slice0/Obligations.lean ====
section
/-! DEFINITION. What this model is held to: one proposition per statement of OBLIGATIONS.json. -/

open Sys2Proof Sys2Proof.Machine

/-! ### Encoding and assembled values -/

/-- R66: each of the fourteen named codes, written out bit by bit, selects its row, and every other code the default
row. -/
def Obligations.OpcodeMapSelectsTheRow : Prop :=
  decodeByte 0b00000000#8 = .busError ∧ decodeByte 0b00001000#8 = .start ∧ decodeByte 0b00010000#8 = .repStart ∧
  decodeByte 0b00011000#8 = .slawAck ∧ decodeByte 0b00100000#8 = .slawNack ∧ decodeByte 0b00101000#8 = .txdataAck ∧
  decodeByte 0b00110000#8 = .txdataNack ∧ decodeByte 0b00111000#8 = .arbLost ∧ decodeByte 0b01000000#8 = .slarAck ∧
  decodeByte 0b01001000#8 = .slarNack ∧ decodeByte 0b01010000#8 = .rxdataAck ∧ decodeByte 0b01011000#8 = .rxdataNack ∧
  decodeByte 0b10100000#8 = .slaveAddr ∧ decodeByte 0b11111000#8 = .noState ∧
  ∀ c : Byte, c ∉ namedCodes → decodeByte c = .unknown c

/-- Every well-formed event is read back from its encoding, whatever bytes follow. -/
def Obligations.EncodedEventDecodesBack : Prop :=
  ∀ (i : Instr) (rest : List Byte), i.wellFormed = true → i.isEvent = true → decode (encode i ++ rest) = .ok (i, rest)

/-- R51: the address in bits 7 to 1, the direction in bit 0, and the source's two worked values. -/
def Obligations.AddressByteLayout : Prop :=
  ∀ r : TransactionRecord,
    (∀ k, k < 7 → (addrByte r).getLsbD (k + 1) = r.address.getLsbD k) ∧
    ((addrByte r).getLsbD 0 = true ↔ r.operation = .read) ∧
    (r.address = 0x50#10 → r.operation = .write → addrByte r = 0xA0#8) ∧
    (r.address = 0x50#10 → r.operation = .read → addrByte r = 0xA1#8)

/-- R72: with `half = f / 75000 / 2` an exact rational, the dividers are the floors of `half * 7 / 10` and
`half * 13 / 10` (the rounding is the spec's decision D12); 48 MHz gives 224 and 416. -/
def Obligations.DividersAreFloors : Prop :=
  (∀ f : Nat, (dividers f).1 = ⌊(f : ℚ) / 75000 / 2 * 7 / 10⌋₊ ∧ (dividers f).2 = ⌊(f : ℚ) / 75000 / 2 * 13 / 10⌋₊) ∧
  dividers 48000000 = (224, 416)

/-! ### Bus-condition events -/

/-- R90. -/
def Obligations.BusErrorSetsStatusAndStops : Prop :=
  ∀ s, EventReady s → exec .busError s =
    .next { afterEvent s 0x00#8 0x14#8 0x08#8 [] with record := { s.record with status := .busError } }

/-- R91. -/
def Obligations.StartSendsAddressByte : Prop :=
  ∀ s, EventReady s → exec .start s =
    .next { afterEvent s 0x08#8 0x00#8 0x08#8 [.datWrite (addrByte s.record)] with datTx := addrByte s.record }

/-- R92: the address byte is computed after the phase is forced to `Read`, so its bit 0 is 1. -/
def Obligations.RepeatedStartSendsReadAddress : Prop :=
  ∀ s, EventReady s → ∃ b : Byte, b = addrByte { s.record with operation := .read } ∧ b.getLsbD 0 = true ∧
    exec .repStart s = .next { afterEvent s 0x10#8 0x00#8 0x08#8 [.datWrite b] with
      record := { s.record with operation := .read }
      datTx := b }

/-- R93. -/
def Obligations.ArbitrationLossRetries : Prop :=
  ∀ s, EventReady s → exec .arbLost s = .next (afterEvent s 0x38#8 0x20#8 0x08#8 [])

/-! ### Transmit events -/

/-- R100, all three ends of the row; the third is the access R48 does not admit, which the spec's decision D10 has latch
`BufferBounds` with no mask applied (log entry 7). -/
def Obligations.WriteAddressAcknowledged : Prop :=
  ∀ s, EventReady s →
    (s.record.outLength = 0 → exec .slawAck s =
      .next { afterEvent s 0x18#8 0x10#8 0x28#8 [] with
        record := { s.record with busy := false, status := .success } }) ∧
    (∀ m, s.record.outLength ≠ 0 → s.record.dataOut = some m → s.record.position < s.record.outLength → exec .slawAck s =
      .next { afterEvent s 0x18#8 0x00#8 0x28#8
          [.memRead s.record.position (m.read s.record.position), .datWrite (m.read s.record.position)] with
        record := { s.record with position := s.record.position + 1 }
        datTx := m.read s.record.position }) ∧
    (s.record.outLength ≠ 0 → s.record.outLength ≤ s.record.position → exec .slawAck s =
      .next (afterFault s 0x18#8 (.bufferBounds .out s.record.position s.record.outLength)))

/-- R101. -/
def Obligations.WriteAddressRefused : Prop :=
  ∀ s, EventReady s → exec .slawNack s =
    .next { afterEvent s 0x20#8 0x10#8 0x28#8 [] with
      record := { s.record with busy := false, status := .deviceNotFound } }

/-- R102, all three branches of the row. -/
def Obligations.DataSentAcknowledged : Prop :=
  ∀ s, EventReady s →
    (s.record.outLength ≤ s.record.position → s.record.repeated = true → exec .txdataAck s =
      .next { afterEvent s 0x28#8 0x20#8 0x08#8 [] with
        record := { s.record with operation := .read, position := 0 } }) ∧
    (s.record.outLength ≤ s.record.position → s.record.repeated = false → exec .txdataAck s =
      .next { afterEvent s 0x28#8 0x10#8 0x08#8 [] with record := { s.record with busy := false } }) ∧
    (∀ m, s.record.position < s.record.outLength → s.record.dataOut = some m → exec .txdataAck s =
      .next { afterEvent s 0x28#8 0x00#8 0x08#8
          [.memRead s.record.position (m.read s.record.position), .datWrite (m.read s.record.position)] with
        record := { s.record with position := s.record.position + 1 }
        datTx := m.read s.record.position })

/-- R103. -/
def Obligations.DataSentRefused : Prop :=
  ∀ s, EventReady s → exec .txdataNack s =
    .next { afterEvent s 0x30#8 0x10#8 0x08#8 [] with record := { s.record with busy := false } }

/-! ### Receive events -/

/-- R110: only `CON` changes, by the number of bytes to come. -/
def Obligations.ReadAddressAcknowledged : Prop :=
  ∀ s, EventReady s →
    (s.record.inLength = 0 → exec .slarAck s = .next (afterEvent s 0x40#8 0x10#8 0x28#8 [])) ∧
    (s.record.inLength = 1 → exec .slarAck s = .next (afterEvent s 0x40#8 0x00#8 0x2C#8 [])) ∧
    (2 ≤ s.record.inLength → exec .slarAck s = .next (afterEvent s 0x40#8 0x04#8 0x28#8 []))

/-- R111. -/
def Obligations.ReadAddressRefused : Prop :=
  ∀ s, EventReady s → exec .slarNack s =
    .next { afterEvent s 0x48#8 0x10#8 0x28#8 [] with
      record := { s.record with busy := false, status := .deviceNotFound } }

/-- R112: the store, then the look-ahead on the cursor the store left. -/
def Obligations.DataReceivedAcknowledged : Prop :=
  ∀ s, EventReady s →
    (∀ m, s.record.position < s.record.inLength → s.record.dataIn = some m →
      (s.record.inLength ≤ s.record.position + 2 → exec .rxdataAck s =
        .next { afterEvent s 0x50#8 0x00#8 0x0C#8 [.datRead s.datRx, .memWrite s.record.position s.datRx] with
          record := { s.record with
            dataIn := some (m.write s.record.position s.datRx)
            position := s.record.position + 1
            busy := false } }) ∧
      (s.record.position + 2 < s.record.inLength → exec .rxdataAck s =
        .next { afterEvent s 0x50#8 0x04#8 0x08#8 [.datRead s.datRx, .memWrite s.record.position s.datRx] with
          record := { s.record with
            dataIn := some (m.write s.record.position s.datRx)
            position := s.record.position + 1 } })) ∧
    (s.record.inLength ≤ s.record.position → exec .rxdataAck s =
      .next { afterEvent s 0x50#8 0x00#8 0x0C#8 [] with record := { s.record with busy := false } })

/-- R113, all three ends of the row; on the fault `busy` is false all the same. That the refused access faults is the spec's
decision D10 (log entry 7), and that its trace shows no read of `DAT` is the model's reading of vector V34 (log entry 11). -/
def Obligations.DataReceivedNotAcknowledged : Prop :=
  ∀ s, EventReady s →
    (s.record.inLength = 0 → exec .rxdataNack s =
      .next { afterEvent s 0x58#8 0x10#8 0x08#8 [] with record := { s.record with busy := false } }) ∧
    (∀ m, s.record.position < s.record.inLength → s.record.dataIn = some m → exec .rxdataNack s =
      .next { afterEvent s 0x58#8 0x10#8 0x08#8 [.datRead s.datRx, .memWrite s.record.position s.datRx] with
        record := { s.record with
          dataIn := some (m.write s.record.position s.datRx)
          position := s.record.position + 1
          busy := false } }) ∧
    (s.record.inLength ≠ 0 → s.record.inLength ≤ s.record.position → exec .rxdataNack s =
      .next { afterFault s 0x58#8 (.bufferBounds .in s.record.position s.record.inLength) with
        record := { s.record with busy := false } })

/-! ### No-action and unknown events, and faults -/

/-- R120 and R121: nothing but `SI` (and the trace). -/
def Obligations.NoActionEventsOnlyClearTheFlag : Prop :=
  ∀ s, EventReady s →
    exec .slaveAddr s = .next (afterEvent s 0xA0#8 0x00#8 0x08#8 []) ∧
    exec .noState s = .next (afterEvent s 0xF8#8 0x00#8 0x08#8 [])

/-- R122: the fault is latched with the code, and nothing else but the trace is written: the halt is the spec's decision D9
(log entry 7). -/
def Obligations.UnknownCodeLatchesTheFault : Prop :=
  ∀ (s : State) (code : Byte), EventReady s →
    exec (.unknown code) s = .next (afterFault s code (.internalFatal code))

/-- R48: an access at an index not below the length, or with no buffer bound, ends the event step in `BufferBounds`
(the spec's decision D10, log entries 7 and 12). That the trace of a refused store shows no read of `DAT` is the model's
reading of vector V34 (log entry 11). -/
def Obligations.RefusedAccessLatchesBufferBounds : Prop :=
  ∀ s, EventReady s →
    (s.record.outLength ≠ 0 → s.record.dataOut = none ∨ s.record.outLength ≤ s.record.position → exec .slawAck s =
      .next (afterFault s 0x18#8 (.bufferBounds .out s.record.position s.record.outLength))) ∧
    (s.record.position < s.record.outLength → s.record.dataOut = none → exec .txdataAck s =
      .next (afterFault s 0x28#8 (.bufferBounds .out s.record.position s.record.outLength))) ∧
    (s.record.position < s.record.inLength → s.record.dataIn = none → exec .rxdataAck s =
      .next (afterFault s 0x50#8 (.bufferBounds .in s.record.position s.record.inLength))) ∧
    (s.record.inLength ≠ 0 → s.record.dataIn = none ∨ s.record.inLength ≤ s.record.position → exec .rxdataNack s =
      .next { afterFault s 0x58#8 (.bufferBounds .in s.record.position s.record.inLength) with
        record := { s.record with busy := false } })

/-- R37 c, R143: once a fault is latched no event step, no host micro-step and no turn of the instance goes on
(the spec's decisions D9 and D34, log entry 7). -/
def Obligations.LatchedFaultStopsEveryStep : Prop :=
  ∀ (s : State) (f : Fault), s.fatal = some f → step s = .fault f ∧ ∀ i, exec i s = .fault f

/-- R80: with no handler registered, or `SI` clear, no event step is enabled (decision D19; the refusal is log entry 9). -/
def Obligations.DisabledEventIsRefused : Prop :=
  ∀ (s : State) (i : Instr), i.isEvent = true → s.fatal = none →
    (s.handlerRegistered = false ∨ s.con.getLsbD 3 = false) → exec i s = .refused .eventNotEnabled

/-! ### All events -/

/-- R82, R83 and the masks of R69: a completed event step applies one set-write and one clear-write, which share no bit, so
that their order, which is the spec's decision D8, does not matter, and the clear-write always names `SI`. -/
def Obligations.EventMasksAreDisjoint : Prop :=
  ∀ (i : Instr) (s t : State), i.isEvent = true → exec i s = .next t → t.fatal = none →
    ∃ set clr : Byte, t.con = (s.con ||| set) &&& ~~~clr ∧ t.con = (s.con &&& ~~~clr) ||| set ∧
      set &&& clr = 0#8 ∧ clr &&& 0x08#8 = 0x08#8 ∧
      ∃ items, t.trace = s.trace ++ items ++ [.conSet set, .conClr clr]

/-- R88: after a completed event step `SI` is clear; after a faulted one it is still set and `CON` is as it was. -/
def Obligations.EventStepClearsOrKeepsTheFlag : Prop :=
  ∀ (i : Instr) (s t : State), i.isEvent = true → exec i s = .next t →
    (t.fatal = none → t.con.getLsbD 3 = false) ∧ (t.fatal ≠ none → t.con = s.con ∧ t.con.getLsbD 3 = true)

/-- R35, R152: what no event step writes: the address, `data_out`, both lengths, `repeated` and `timeout` of the record;
`STAT`, the received byte and the dividers; the handler registration, the foreground's point, the controller's position,
the last return value and the agenda; bits 0, 1, 6 and 7 of `CON`. -/
def Obligations.EventsLeaveTheRestAlone : Prop :=
  ∀ (i : Instr) (s t : State), i.isEvent = true → exec i s = .next t →
    t.record.address = s.record.address ∧ t.record.dataOut = s.record.dataOut ∧
    t.record.outLength = s.record.outLength ∧ t.record.inLength = s.record.inLength ∧
    t.record.repeated = s.record.repeated ∧ t.record.timeout = s.record.timeout ∧
    t.stat = s.stat ∧ t.datRx = s.datRx ∧ t.divLo = s.divLo ∧ t.divHi = s.divHi ∧
    t.handlerRegistered = s.handlerRegistered ∧ t.host = s.host ∧ t.ctrl = s.ctrl ∧ t.returned = s.returned ∧
    t.agenda = s.agenda ∧ t.con &&& 0xC3#8 = s.con &&& 0xC3#8

/-- R14, R17: an event step leaves the phase or forces it to `Read`, and leaves the cursor, advances it by one, or resets
it to 0. -/
def Obligations.EventsMoveTheCursorForward : Prop :=
  ∀ (i : Instr) (s t : State), i.isEvent = true → exec i s = .next t →
    (t.record.operation = s.record.operation ∨ t.record.operation = .read) ∧
    (t.record.position = s.record.position ∨ t.record.position = s.record.position + 1 ∨ t.record.position = 0) ∧
    (t.record.busy = s.record.busy ∨ t.record.busy = false)

/-- R47: event 0x50 or 0x58 stores the received byte at the cursor, and every other byte of `data_in` reads as before. -/
def Obligations.ReceiveEventsStoreOneByte : Prop :=
  ∀ (i : Instr) (s t : State) (m : Memory), i = .rxdataAck ∨ i = .rxdataNack → s.Kept → s.record.dataIn = some m →
    exec i s = .next t →
    ∃ m', t.record.dataIn = some m' ∧
      (∀ a, a ≠ s.record.position → m'.read a = m.read a) ∧
      (s.record.position < s.record.inLength → m'.read s.record.position = s.datRx) ∧
      (s.record.inLength ≤ s.record.position → m' = m)

/-- R15, R16, R45: no other instruction but a submission writes or rebinds a buffer, and none writes `data_out`. -/
def Obligations.OtherInstructionsStoreNothing : Prop :=
  ∀ (i : Instr) (s t : State), exec i s = .next t → (∀ u, i ≠ .submitTransaction u) →
    t.record.dataOut = s.record.dataOut ∧ t.record.outLength = s.record.outLength ∧
    t.record.inLength = s.record.inLength ∧
    (i ≠ .rxdataAck → i ≠ .rxdataNack → t.record.dataIn = s.record.dataIn)

/-- R84: an event step is a function of the record, the received byte and `CON`; from two states that agree on these, with
whatever else, its results agree, and it appends the same items. -/
def Obligations.EventDependsOnlyOnItsInputs : Prop :=
  ∀ (i : Instr) (s₁ s₂ t₁ t₂ : State), i.isEvent = true →
    s₁.record = s₂.record → s₁.datRx = s₂.datRx → s₁.con = s₂.con →
    exec i s₁ = .next t₁ → exec i s₂ = .next t₂ →
    t₁.record = t₂.record ∧ t₁.con = t₂.con ∧ t₁.fatal = t₂.fatal ∧
    (t₁.datTx = t₂.datTx ∨ (t₁.datTx = s₁.datTx ∧ t₂.datTx = s₂.datTx)) ∧
    ∃ items, t₁.trace = s₁.trace ++ items ∧ t₂.trace = s₂.trace ++ items

/-- R85: no row tests `busy` or `status`; whatever they hold, the step does the same to everything else. -/
def Obligations.EventsDoNotTestBusyOrStatus : Prop :=
  ∀ (i : Instr) (s t : State) (b : Bool) (v : Status), i.isEvent = true → exec i s = .next t →
    ∃ t', exec i { s with record := { s.record with busy := b, status := v } } = .next t' ∧
      { t' with record := { t'.record with busy := t.record.busy, status := t.record.status } } = t

/-! ### Host commands -/

/-- R130: the micro-steps I1 to I6, each from the point before it, with the collaborators answering success. The bits I4
clears, the dividers' rounding, the state `Initialize` is accepted from, the order of the two lines in I1 and its six calls
being one micro-step, the field that holds the value returned, and where the frequency stands from I2 to I3 are choices
(decisions D11 and D12, log entries 8, 15, 16 and 19). -/
def Obligations.InitialiseMicroSteps : Prop :=
  ∀ (s : State) (a : InitAnswers),
    (HostAt .idle s → s.con.getLsbD 6 = false ∨ s.quiescent = true → a.pinFailure = none →
      exec (.initialise a) s = .next { s with
        host := .initPower
        trace := s.trace ++ [.collab (.setFunction .data) .ok, .collab (.setOpenDrain .data) .ok,
          .collab (.setPullResistorNone .data) .ok, .collab (.setFunction .clock) .ok,
          .collab (.setOpenDrain .clock) .ok, .collab (.setPullResistorNone .clock) .ok] }) ∧
    (∀ f, HostAt .initPower s → a.power = some f → exec (.initialise a) s = .next { s with
        host := .initDividers f
        trace := s.trace ++ [.collab .powerUpPeripheral (.frequency f)] }) ∧
    (∀ f, HostAt (.initDividers f) s → exec (.initialise a) s = .next { s with
        divLo := (dividers f).1
        divHi := (dividers f).2
        host := .initClear
        trace := s.trace ++ [.divWrite (dividers f).1 (dividers f).2] }) ∧
    (HostAt .initClear s → exec (.initialise a) s = .next { s with
        con := s.con &&& ~~~0x3C#8
        host := .initEnable
        trace := s.trace ++ [.conClr 0x3C#8] }) ∧
    (HostAt .initEnable s → exec (.initialise a) s = .next { s with
        con := s.con ||| 0x40#8
        host := .initRegister
        trace := s.trace ++ [.conSet 0x40#8] }) ∧
    (HostAt .initRegister s → a.registerOk = true → exec (.initialise a) s = .next { s with
        handlerRegistered := true
        host := .idle
        returned := some .ok
        trace := s.trace ++ [.collab .register .ok] })

/-- D13, R130: a collaborator call that fails ends `Initialize` with failure, the calls before it recorded as answered, it
as failed, and writes nothing else (the spec's decision D13). The state I1 is accepted from, the order of its calls and the
field that holds the value returned are choices (log entries 8, 15 and 16). -/
def Obligations.InitialiseStopsAtTheFailingCall : Prop :=
  ∀ (s : State) (a : InitAnswers),
    (∀ (k : Fin 6) (calls : List CollabCall) (failing : CollabCall),
      HostAt .idle s → s.con.getLsbD 6 = false ∨ s.quiescent = true → a.pinFailure = some k →
      calls = [.setFunction .data, .setOpenDrain .data, .setPullResistorNone .data,
        .setFunction .clock, .setOpenDrain .clock, .setPullResistorNone .clock] →
      calls[k.val]? = some failing →
      exec (.initialise a) s = .next { s with
        returned := some .failure
        trace := s.trace ++ (calls.take k.val).map (.collab · .ok) ++ [.collab failing .failure] }) ∧
    (HostAt .initPower s → a.power = none → exec (.initialise a) s = .next { s with
        host := .idle
        returned := some .failure
        trace := s.trace ++ [.collab .powerUpPeripheral .failure] }) ∧
    (HostAt .initRegister s → a.registerOk = false → exec (.initialise a) s = .next { s with
        host := .idle
        returned := some .failure
        trace := s.trace ++ [.collab .register .failure] })

/-- R130 corner a, R39: six turns of the foreground run a successful `Initialize` to its end, and a second one leaves the
same dividers and control register. The state the first one is accepted from is log entry 8. -/
def Obligations.InitialiseTwiceEndsAsOnce : Prop :=
  ∀ (s : State) (a : InitAnswers) (f : Nat), HostAt .idle s → s.con.getLsbD 6 = false ∨ s.quiescent = true →
    s.ctrl = .idle → a.pinFailure = none → a.power = some f → a.registerOk = true →
    s.agenda = List.replicate 12 (.host (.initialise a)) →
    ∃ t u, Sys2Proof.core.run 6 s = .next t ∧ Sys2Proof.core.run 12 s = .next u ∧
      t.con = (s.con &&& ~~~0x3C#8) ||| 0x40#8 ∧ t.con &&& 0x7C#8 = 0x40#8 ∧
      (t.divLo, t.divHi) = dividers f ∧ t.handlerRegistered = true ∧ t.returned = some .ok ∧ t.host = .idle ∧
      t.record = s.record ∧ t.stat = s.stat ∧ t.datTx = s.datTx ∧ t.datRx = s.datRx ∧
      u.con = t.con ∧ u.divLo = t.divLo ∧ u.divHi = t.divHi ∧ u.returned = some .ok ∧ u.record = s.record

/-- R131: the answer is bit 6 of `CON`, and nothing else is written. -/
def Obligations.IsInitializedReadsTheEnableBit : Prop :=
  ∀ s, HostAt .idle s → exec .isInitialized s = .next { s with returned := some (.flag (s.con.getLsbD 6)) }

/-- R132: the guard, the install of the whole record, and the start. `status` and `position` at install are the spec's
decisions D5 and D6; that the foreground hands over the same submission at each micro-step is log entry 19. -/
def Obligations.SubmitMicroSteps : Prop :=
  ∀ (s : State) (t : Submission),
    (HostAt .idle s → t.address ≤ 0x7F#10 → s.con.getLsbD 6 = true →
      exec (.submitTransaction t) s = .next { s with host := .submitInstall t }) ∧
    (HostAt (.submitInstall t) s → ∃ mOut mIn,
      exec (.submitTransaction t) s = .next { s with
        record := { address := t.address, operation := t.direction,
                    dataOut := some mOut, outLength := t.outBuffer.length,
                    dataIn := some mIn, inLength := t.inBuffer.length,
                    position := 0, repeated := t.repeated, busy := true, status := .success, timeout := t.timeout }
        host := .submitStart t } ∧
      (∀ k, mOut.read k = t.outBuffer.getD k 0x00#8) ∧ (∀ k, mIn.read k = t.inBuffer.getD k 0x00#8)) ∧
    (HostAt (.submitStart t) s → exec (.submitTransaction t) s = .next { s with
        con := s.con ||| 0x20#8
        host := .waiting
        trace := s.trace ++ [.conSet 0x20#8] })

/-- R144: before `Initialize` the guard latches `NotInitialized` and nothing else happens (the spec's decision D26). -/
def Obligations.SubmitBeforeInitialiseFaults : Prop :=
  ∀ (s : State) (t : Submission), HostAt .idle s → t.address ≤ 0x7F#10 → s.con.getLsbD 6 = false →
    exec (.submitTransaction t) s = .next { s with
      fatal := some .notInitialized
      trace := s.trace ++ [.fault .notInitialized] }

/-- What the model does not take as a step (log entries 8, 9, 10, 19; decisions D3 and D34, U3, U11 of the spec): a 10-bit
address, a call inside another call, an `Initialize` while a transaction is live, and a micro-step of the synchronizer out
of its place. -/
def Obligations.RefusedHostCalls : Prop :=
  ∀ (s : State) (t : Submission) (a : InitAnswers) (d : Bool), s.fatal = none →
    (s.host = .idle → 0x7F#10 < t.address → exec (.submitTransaction t) s = .refused .addressAbove7F) ∧
    (s.host ≠ .idle → s.host ≠ .submitInstall t → s.host ≠ .submitStart t →
      exec (.submitTransaction t) s = .refused .callOutstanding) ∧
    (s.host ≠ .idle → exec .isInitialized s = .refused .callOutstanding) ∧
    (s.host.pastEnable = true → s.host ≠ .initRegister → exec (.initialise a) s = .refused .callOutstanding) ∧
    (s.host = .idle → s.con.getLsbD 6 = true → s.quiescent = false →
      exec (.initialise a) s = .refused .initialiseNotQuiescent) ∧
    (s.host ≠ .waiting → exec (.wait d) s = .refused .hostElsewhere) ∧
    (s.host ≠ .abortStop → s.host ≠ .abortNack → s.host ≠ .abortStatus → s.host ≠ .abortWarn →
      exec .timeoutAbort s = .refused .hostElsewhere) ∧
    (s.host ≠ .returnClear → s.host ≠ .returnRead → exec .returnStatus s = .refused .hostElsewhere)

/-- R134: `busy` first; the deadline's answer counts only while it is true (the spec's decisions D15 and D16). -/
def Obligations.WaitTestsBusyFirst : Prop :=
  ∀ (s : State) (d : Bool), HostAt .waiting s →
    (s.record.busy = false → exec (.wait d) s = .next { s with host := .returnClear }) ∧
    (s.record.busy = true → d = true → exec (.wait d) s = .next { s with host := .abortStop }) ∧
    (s.record.busy = true → d = false → exec (.wait d) s = .next s)

/-- R135: A1 to A4, each from the point before it; STOP before NACK, and NACK as clearing `AA`, are the spec's decision
D7. -/
def Obligations.TimeoutAbortMicroSteps : Prop :=
  ∀ s : State,
    (HostAt .abortStop s → exec .timeoutAbort s = .next { s with
      con := s.con ||| 0x10#8, host := .abortNack, trace := s.trace ++ [.conSet 0x10#8] }) ∧
    (HostAt .abortNack s → exec .timeoutAbort s = .next { s with
      con := s.con &&& ~~~0x04#8, host := .abortStatus, trace := s.trace ++ [.conClr 0x04#8] }) ∧
    (HostAt .abortStatus s → exec .timeoutAbort s = .next { s with
      record := { s.record with status := .timedOut }, host := .abortWarn }) ∧
    (HostAt .abortWarn s → s.record.outLength ≠ 0 → s.record.inLength ≠ 0 → exec .timeoutAbort s = .next { s with
      host := .returnClear, trace := s.trace ++ [.warningMultiPhaseTimeout] }) ∧
    (HostAt .abortWarn s → s.record.outLength = 0 ∨ s.record.inLength = 0 → exec .timeoutAbort s = .next { s with
      host := .returnClear })

/-- R136: F1 clears START and nothing else, F2 hands over the status as it stands. -/
def Obligations.ReturnMicroSteps : Prop :=
  ∀ s : State,
    (HostAt .returnClear s → exec .returnStatus s = .next { s with
      con := s.con &&& ~~~0x20#8, host := .returnRead, trace := s.trace ++ [.conClr 0x20#8] }) ∧
    (HostAt .returnRead s → exec .returnStatus s = .next { s with
      host := .idle, returned := some (.status s.record.status),
      trace := s.trace ++ [.returned s.record.status] })

/-- R142, R135, R136: a wait that sees `busy` true and the deadline elapsed, left to itself, returns `TimedOut` with START
clear, STOP set and the acknowledge withdrawn, the abort done exactly once, and `busy` still true. -/
def Obligations.TimedOutWaitReturnsTimedOut : Prop :=
  ∀ (s : State), HostAt .waiting s → s.record.busy = true →
    s.agenda = [.host (.wait true), .host .timeoutAbort, .host .timeoutAbort, .host .timeoutAbort, .host .timeoutAbort,
      .host .returnStatus, .host .returnStatus] →
    ∃ t, Sys2Proof.core.run 7 s = .next t ∧ t.returned = some (.status .timedOut) ∧ t.host = .idle ∧
      t.con = ((s.con ||| 0x10#8) &&& ~~~0x04#8) &&& ~~~0x20#8 ∧
      t.record = { s.record with status := .timedOut } ∧
      t.trace = s.trace ++ [.conSet 0x10#8, .conClr 0x04#8] ++
        (if s.record.outLength ≠ 0 ∧ s.record.inLength ≠ 0 then [.warningMultiPhaseTimeout] else []) ++
        [.conClr 0x20#8, .returned .timedOut]

/-- R152, R35: what no host micro-step writes. It never touches `STAT` or `DAT`, never writes `busy` to false, and writes the
record only by a submission's install or the abort's status. -/
def Obligations.HostCommandsLeaveTheBusSideAlone : Prop :=
  ∀ (i : Instr) (s t : State), i.isEvent = false → exec i s = .next t →
    t.stat = s.stat ∧ t.datTx = s.datTx ∧ t.datRx = s.datRx ∧ t.ctrl = s.ctrl ∧ t.agenda = s.agenda ∧
    (t.record = s.record ∨ t.record = { s.record with status := .timedOut } ∨
      ∃ u, i = .submitTransaction u ∧ s.host = .submitInstall u ∧ t.record.busy = true) ∧
    (s.record.busy = true → t.record.busy = true)

/-- R148: the host never clears a pending event, but for step I4 of `Initialize`. -/
def Obligations.OnlyInitialiseDropsAPendingEvent : Prop :=
  ∀ (i : Instr) (s t : State), i.isEvent = false → exec i s = .next t → s.host ≠ .initClear →
    t.con.getLsbD 3 = s.con.getLsbD 3

/-! ### Steps -/

/-- A step of the interrupt context runs the instruction the byte in `STAT` decodes to, the turn taken off the agenda, which
is the model's own field (log entry 1). -/
def Obligations.StepRunsThePendingEvent : Prop :=
  ∀ (s : State) (i : Instr) (rest : List Turn), s.fatal = none → s.agenda = .isr :: rest →
    decode [s.stat] = .ok (i, []) → step s = exec i { s with agenda := rest }

/-- A step of the foreground runs its command, one of the controller its act, and with no turn to take nothing happens
(log entry 1). That a turn of the foreground which names an event is refused is the model's choice (log entry 9): R152 has
the interrupt context perform the event steps, and gives such a turn no meaning. -/
def Obligations.StepTakesTheNextTurn : Prop :=
  ∀ (s : State), s.fatal = none →
    (∀ i rest, s.agenda = .host i :: rest → i.isEvent = false → step s = exec i { s with agenda := rest }) ∧
    (∀ i rest, s.agenda = .host i :: rest → i.isEvent = true → step s = .refused .notHostCommand) ∧
    (∀ a rest, s.agenda = .ctrl a :: rest → step s = ctrlStep a { s with agenda := rest }) ∧
    (s.agenda = [] → step s = .next s)

/-- What each act of the controller writes. R80, D19: it raises an event only while none is pending, and sets `STAT`, the
received byte and `SI`. R28, D20: acting on `STO` it clears that bit and no other. Its other acts write its position alone;
what a look records is R160's "the values of `STA`, `STO`, `AA` and `DAT` it then sees". The form of the acts is log
entry 13. -/
def Obligations.ControllerRaisesOneEventAtATime : Prop :=
  ∀ (s : State) (code rx : Byte),
    (s.con.getLsbD 3 = false → ctrlStep (.raise code rx) s =
      .next { s with stat := code, datRx := rx, con := s.con ||| 0x08#8, ctrl := .reported code }) ∧
    (s.con.getLsbD 3 = true → ctrlStep (.raise code rx) s = .refused .eventWhilePending) ∧
    (s.ctrl = .idle → ctrlStep .look s = .next { s with ctrl := .starting }) ∧
    (∀ c, s.ctrl = .reported c → ctrlStep .look s = .next { s with ctrl := .acting c s.con s.datTx }) ∧
    (s.ctrl = .starting ∨ (∃ c con dat, s.ctrl = .acting c con dat) → ctrlStep .look s = .next s) ∧
    ctrlStep .finishStop s = .next { s with con := s.con &&& ~~~0x10#8, ctrl := .idle } ∧
    ctrlStep .stopThenStart s = .next { s with con := s.con &&& ~~~0x10#8, ctrl := .starting } ∧
    ctrlStep .goIdle s = .next { s with ctrl := .idle }

/-- R31, decision D17: no step changes the reserved bits of `CON`. -/
def Obligations.ReservedControlBitsNeverChange : Prop :=
  ∀ s t : State, step s = .next t → t.con &&& 0x83#8 = s.con &&& 0x83#8

/-- R30: once the interface is enabled no step disables it, and only step I5 enables it. -/
def Obligations.InterfaceEnableIsNeverCleared : Prop :=
  ∀ s t : State, step s = .next t →
    (s.con.getLsbD 6 = true → t.con.getLsbD 6 = true) ∧
    (s.con.getLsbD 6 = false → t.con.getLsbD 6 = true → s.host = .initEnable)

/-- R38: every step only appends to the trace. -/
def Obligations.TraceOnlyGrows : Prop :=
  ∀ s t : State, step s = .next t → ∃ items, t.trace = s.trace ++ items

/-- R29: an event step clears START only for an address-phase result. -/
def Obligations.StartIsClearedByAddressResults : Prop :=
  ∀ (i : Instr) (s t : State), i.isEvent = true → exec i s = .next t →
    s.con.getLsbD 5 = true → t.con.getLsbD 5 = false →
    i = .slawAck ∨ i = .slawNack ∨ i = .slarAck ∨ i = .slarNack

/-- R24, R155: a step of one instance leaves every other as it was, and is the step that instance takes alone. -/
def Obligations.InstancesAreIndependent : Prop :=
  ∀ (sys sys' : System) (k : Fin sys.length), systemStep sys k = .next sys' →
    sys'.length = sys.length ∧
    (∀ j, j ≠ k.val → sys'[j]? = sys[j]?) ∧
    ∃ s', step (sys.get k) = .next s' ∧ sys'[k.val]? = some s'

/-! ### Memory -/

/-- Buffers in canonical form that read alike are the same data (log entry 5). -/
def Obligations.MemoryFormIsCanonical : Prop :=
  ∀ m₁ m₂ : Memory, m₁.wf = true → m₂.wf = true → (∀ i, m₁.read i = m₂.read i) → m₁ = m₂

/-! ### Reset and invariants -/

/-- R39: the reset values the spec gives, by its decision D14. -/
def Obligations.ResetValuesOfTheSpec : Prop :=
  State.reset.con.getLsbD 6 = false ∧ State.reset.record.busy = false ∧ State.reset.record.dataOut = none ∧
  State.reset.record.dataIn = none ∧ State.reset.handlerRegistered = false ∧ State.reset.fatal = none ∧
  State.reset.host = .idle ∧ State.reset.trace = []

/-- Reset is well kept. The buffers are unbound because R39 says so; that the address is below 0x80, the cursor within the
lengths and the status not `InProgress` rests on the reset values the model chose (log entry 3). -/
def Obligations.ResetIsWellKept : Prop := State.reset.Kept

/-- Every step of a well-kept state ends in one. -/
def Obligations.StepKeepsTheStateWellKept : Prop :=
  ∀ s t : State, s.Kept → step s = .next t → t.Kept

/-- R36, R86: where the host submits only what fits a `usize`, the cursor and both lengths stay below `2 ^ W_SIZE`, so the
cursor does not wrap. -/
def Obligations.CursorNeverWraps : Prop :=
  ∀ s t : State, s.Kept → step s = .next t →
    s.record.outLength < 2 ^ Config.wSize → s.record.inLength < 2 ^ Config.wSize →
    (∀ u, s.host = .submitInstall u → u.fitsUsize) →
    t.record.outLength < 2 ^ Config.wSize ∧ t.record.inLength < 2 ^ Config.wSize ∧ t.record.position < 2 ^ Config.wSize

/-- A transaction just started on an idle controller is undisturbed; and the three micro-steps of a submission to a
quiescent, enabled instance start one (R132, R183). -/
def Obligations.StartedIsUndisturbed : Prop :=
  (∀ s : State, s.Started → s.Undisturbed) ∧
  ∀ (s : State) (u : Submission) (rest : List Turn), s.quiescent = true → s.con.getLsbD 6 = true →
    u.address ≤ 0x7F#10 → s.agenda = List.replicate 3 (.host (.submitTransaction u)) ++ rest →
    ∃ t, Sys2Proof.core.run 3 s = .next t ∧ t.Started ∧ t.record = installRecord u ∧ t.con = s.con ||| 0x20#8 ∧
      t.host = .waiting ∧ t.agenda = rest

/-- A calm step of an undisturbed state ends in one. A calm turn leaves out arbitration loss, and the slave codes unknown to
the sequencer that R160 allows an idle controller (log entry 13). -/
def Obligations.CalmStepKeepsUndisturbed : Prop :=
  ∀ s t : State, s.Undisturbed → calmNext s = true → step s = .next t → t.Undisturbed

/-- R48: under a conformant controller that loses no arbitration and reports no slave code unknown to the sequencer (R160
allows an idle one to; log entry 13), a started transaction left to itself never makes an access out of range: the run does
not stop at a fault, and no step of it, the last among them, latches one. -/
def Obligations.CalmRunNeverFaults : Prop :=
  ∀ (n : Nat) (s : State), s.Started → calmRun n s →
    (∀ f, Sys2Proof.core.run n s ≠ .fault f) ∧ ∀ t, Sys2Proof.core.run n s = .next t → t.fatal = none

/-! ### Whole transactions -/

/-- R138 rows 1 and 7, R102 corner c: a write of `n ≥ 1` bytes, acknowledged throughout. The address byte and exactly the
`n` bytes go to `DAT` in order; then the transaction ends with `Success`, or, with `repeated`, asks for a start in the
read phase at cursor 0 and stays busy. -/
def Obligations.WriteTransactionSendsEveryByte : Prop :=
  ∀ (s : State) (t : Submission) (m : Memory), s.fatal = none → s.handlerRegistered = true → s.con.getLsbD 3 = false →
    t.direction = .write → t.outBuffer ≠ [] →
    s.record.address = t.address → s.record.operation = .write → s.record.dataOut = some m →
    (∀ k, m.read k = t.outBuffer.getD k 0x00#8) → s.record.outLength = t.outBuffer.length →
    s.record.position = 0 → s.record.repeated = t.repeated → s.record.busy = true → s.record.status = .success →
    s.agenda = deliver ((0x08#8, 0x00#8) :: (0x18#8, 0x00#8) :: List.replicate t.outBuffer.length (0x28#8, 0x00#8)) →
    ∃ u items, Sys2Proof.core.run (2 * (t.outBuffer.length + 2)) s = .next u ∧ u.agenda = [] ∧ u.fatal = none ∧
      u.trace = s.trace ++ items ∧ datWrites items = addrByte s.record :: t.outBuffer ∧
      u.record.status = .success ∧ u.con.getLsbD 3 = false ∧
      (t.repeated = false → u.record.busy = false ∧ u.record.position = t.outBuffer.length ∧
        u.con.getLsbD 4 = true) ∧
      (t.repeated = true → u.record.busy = true ∧ u.record.operation = .read ∧ u.record.position = 0 ∧
        u.con.getLsbD 5 = true)

/-- R138 rows 4 and 5, R50: a read of `n ≥ 1` bytes. The bytes received stand in `data_in` in receipt order, the last one
not acknowledged, and the transaction has ended with `Success` and STOP asserted. For `n ≥ 2` `busy` fell with the last
0x50, before the last byte (R176). -/
def Obligations.ReadTransactionStoresEveryByte : Prop :=
  ∀ (s : State) (bytes : List Byte) (last : Byte) (m : Memory),
    s.fatal = none → s.handlerRegistered = true → s.con.getLsbD 3 = false → s.Kept →
    s.record.operation = .read → s.record.dataIn = some m → s.record.inLength = bytes.length + 1 →
    s.record.position = 0 → s.record.busy = true → s.record.status = .success →
    s.agenda = deliver ((0x08#8, 0x00#8) :: (0x40#8, 0x00#8) :: bytes.map (fun b => (0x50#8, b))) ++
      deliver [(0x58#8, last)] →
    ∃ t u m', Sys2Proof.core.run (2 * (bytes.length + 2)) s = .next t ∧
      (t.record.busy = false ↔ bytes ≠ []) ∧ t.con.getLsbD 2 = false ∧ t.con.getLsbD 4 = s.con.getLsbD 4 ∧
      Sys2Proof.core.run (2 * (bytes.length + 3)) s = .next u ∧
      u.fatal = none ∧ u.agenda = [] ∧ u.record.dataIn = some m' ∧
      (∀ k, k ≤ bytes.length → m'.read k = (bytes ++ [last]).getD k 0x00#8) ∧
      u.record.position = bytes.length + 1 ∧ u.record.busy = false ∧ u.record.status = .success ∧
      u.con.getLsbD 4 = true ∧ u.con.getLsbD 3 = false
end

