-- ==== Sys2Proof/Laws/Memory.lean ====
section
/-! SUPPORT. The laws of a buffer's bytes: what a read gives after a write, and that every operation keeps the canonical
form and the bound on the indices. -/

namespace Sys2Proof.Machine

theorem Memory.read_nil (i : Nat) : Memory.read [] i = Memory.unlisted := rfl

theorem Memory.read_cons (a : Nat) (b : Byte) (m : Memory) (i : Nat) :
    Memory.read ((a, b) :: m) i = if a = i then b else m.read i := rfl

/-- An index before the first entry is unlisted. -/
theorem Memory.read_below {m : Memory} {lo i : Nat} (h : m.wfFrom lo = true) (hi : i < lo) :
    m.read i = Memory.unlisted := by
  induction m generalizing lo with
  | nil => rfl
  | cons e m ih =>
    obtain ⟨a, b⟩ := e
    simp only [Memory.wfFrom, Bool.and_eq_true, decide_eq_true_eq] at h
    rw [Memory.read_cons, if_neg (by omega)]
    exact ih h.2 (by omega)

theorem Memory.read_consOp {m : Memory} {i j : Nat} {v : Byte} (h : m.wfFrom (i + 1) = true) :
    (Memory.cons i v m).read j = if i = j then v else m.read j := by
  unfold Memory.cons
  split
  · next hv =>
    split
    · next hij => subst hij; rw [hv]; exact Memory.read_below h (by omega)
    · rfl
  · rfl

theorem Memory.wfFrom_mono {m : Memory} {lo hi : Nat} (h : m.wfFrom hi = true) (hle : lo ≤ hi) :
    m.wfFrom lo = true := by
  cases m with
  | nil => rfl
  | cons e m =>
    obtain ⟨a, b⟩ := e
    simp only [Memory.wfFrom, Bool.and_eq_true, decide_eq_true_eq] at h ⊢
    exact ⟨⟨by omega, h.1.2⟩, h.2⟩

theorem Memory.wfFrom_consOp {m : Memory} {lo i : Nat} {v : Byte} (h : m.wfFrom (i + 1) = true) (hle : lo ≤ i) :
    (Memory.cons i v m).wfFrom lo = true := by
  unfold Memory.cons
  split
  · exact Memory.wfFrom_mono h (by omega)
  · next hv => simp [Memory.wfFrom, hle, hv, h]

/-- A write keeps the canonical form. -/
theorem Memory.wfFrom_write {m : Memory} {lo i : Nat} {v : Byte} (h : m.wfFrom lo = true) (hle : lo ≤ i) :
    (m.write i v).wfFrom lo = true := by
  induction m generalizing lo with
  | nil => exact Memory.wfFrom_consOp rfl hle
  | cons e m ih =>
    obtain ⟨a, b⟩ := e
    have h' := h
    simp only [Memory.wfFrom, Bool.and_eq_true, decide_eq_true_eq] at h
    unfold Memory.write
    split
    · next hia =>
      exact Memory.wfFrom_consOp (by simp only [Memory.wfFrom, Bool.and_eq_true, decide_eq_true_eq]; exact ⟨⟨by omega, h.1.2⟩, h.2⟩) hle
    · split
      · next _ hia => subst hia; exact Memory.wfFrom_consOp h.2 hle
      · next h1 h2 =>
        simp only [Memory.wfFrom, Bool.and_eq_true, decide_eq_true_eq]
        exact ⟨h.1, ih h.2 (by omega)⟩

theorem Memory.wf_write {m : Memory} {i : Nat} {v : Byte} (h : m.wf = true) : (m.write i v).wf = true :=
  Memory.wfFrom_write h (Nat.zero_le i)

/-- A read after a write, from an index on. -/
theorem Memory.read_writeFrom {m : Memory} {lo i j : Nat} {v : Byte} (h : m.wfFrom lo = true) :
    (m.write i v).read j = if i = j then v else m.read j := by
  induction m generalizing lo with
  | nil => exact Memory.read_consOp rfl
  | cons e m ih =>
    obtain ⟨a, b⟩ := e
    have h' := h
    simp only [Memory.wfFrom, Bool.and_eq_true, decide_eq_true_eq] at h
    unfold Memory.write
    split
    · next hia =>
      exact Memory.read_consOp (by simp only [Memory.wfFrom, Bool.and_eq_true, decide_eq_true_eq]; exact ⟨⟨by omega, h.1.2⟩, h.2⟩)
    · split
      · next _ hia =>
        subst hia
        rw [Memory.read_consOp h.2, Memory.read_cons]
        split <;> rfl
      · next h1 h2 =>
        rw [Memory.read_cons, Memory.read_cons, ih h.2]
        split
        · next haj => rw [if_neg (by omega)]
        · rfl

theorem Memory.wfFrom_ofBytesFrom (bs : List Byte) (i : Nat) : (Memory.ofBytesFrom i bs).wfFrom i = true := by
  induction bs generalizing i with
  | nil => rfl
  | cons b bs ih => exact Memory.wfFrom_consOp (ih (i + 1)) (Nat.le_refl i)

/-- A byte sequence makes a buffer in canonical form. -/
theorem Memory.wf_ofBytes (bs : List Byte) : (Memory.ofBytes bs).wf = true := Memory.wfFrom_ofBytesFrom bs 0

theorem Memory.read_ofBytesFrom (bs : List Byte) (i j : Nat) :
    (Memory.ofBytesFrom i bs).read (i + j) = bs.getD j Memory.unlisted := by
  induction bs generalizing i j with
  | nil => rfl
  | cons b bs ih =>
    unfold Memory.ofBytesFrom
    rw [Memory.read_consOp (Memory.wfFrom_ofBytesFrom bs (i + 1))]
    cases j with
    | zero => simp
    | succ j =>
      rw [if_neg (by omega)]
      have := ih (i + 1) j
      rw [Nat.add_assoc, Nat.add_comm 1 j] at this
      simpa using this

/-- A buffer reads as the sequence it was made from (R50). -/
theorem Memory.read_ofBytes (bs : List Byte) (j : Nat) :
    (Memory.ofBytes bs).read j = bs.getD j Memory.unlisted := by
  have := Memory.read_ofBytesFrom bs 0 j
  rwa [Nat.zero_add] at this

/-! ### The bound on the indices -/

/-- Every entry lies below `n`. -/
def Memory.indicesBelow (n : Nat) (m : Memory) : Bool := m.all fun e => decide (e.1 < n)

theorem Memory.indicesBelow_consOp {n i : Nat} {v : Byte} {m : Memory} (h : m.indicesBelow n = true) (hi : i < n) :
    (Memory.cons i v m).indicesBelow n = true := by
  unfold Memory.cons
  split
  · exact h
  · simpa [Memory.indicesBelow, hi] using h

theorem Memory.indicesBelow_write {n i : Nat} {v : Byte} {m : Memory} (h : m.indicesBelow n = true) (hi : i < n) :
    (m.write i v).indicesBelow n = true := by
  induction m with
  | nil => exact Memory.indicesBelow_consOp rfl hi
  | cons e m ih =>
    obtain ⟨a, b⟩ := e
    have hm : Memory.indicesBelow n m = true := by simp only [Memory.indicesBelow, List.all_cons, Bool.and_eq_true] at h ⊢; exact h.2
    have ha : a < n := by simp only [Memory.indicesBelow, List.all_cons, Bool.and_eq_true, decide_eq_true_eq] at h; exact h.1
    unfold Memory.write
    split
    · exact Memory.indicesBelow_consOp h hi
    · split
      · exact Memory.indicesBelow_consOp hm hi
      · have := ih hm
        simp only [Memory.indicesBelow, List.all_cons, Bool.and_eq_true, decide_eq_true_eq] at this ⊢
        exact ⟨ha, this⟩

theorem Memory.indicesBelow_ofBytesFrom (bs : List Byte) (i : Nat) : (Memory.ofBytesFrom i bs).indicesBelow (i + bs.length) = true := by
  induction bs generalizing i with
  | nil => rfl
  | cons b bs ih =>
    refine Memory.indicesBelow_consOp ?_ (by simp)
    have := ih (i + 1)
    rwa [Nat.add_assoc, Nat.add_comm 1] at this

theorem Memory.indicesBelow_ofBytes (bs : List Byte) : (Memory.ofBytes bs).indicesBelow bs.length = true := by
  have := Memory.indicesBelow_ofBytesFrom bs 0
  rwa [Nat.zero_add] at this

/-- A write below the length keeps a buffer kept. -/
theorem bufferKept_write {n i : Nat} {m : Memory} {v : Byte} (h : bufferKept n (some m) = true) (hi : i < n) :
    bufferKept n (some (m.write i v)) = true := by
  simp only [bufferKept, Bool.and_eq_true] at h ⊢
  exact ⟨Memory.wf_write h.1, Memory.indicesBelow_write (m := m) h.2 hi⟩

/-- The buffer a byte sequence makes is kept, at the sequence's length. -/
theorem bufferKept_ofBytes (bs : List Byte) : bufferKept bs.length (some (Memory.ofBytes bs)) = true := by
  simp only [bufferKept, Memory.wf_ofBytes, Bool.true_and]
  exact Memory.indicesBelow_ofBytes bs

end Sys2Proof.Machine
end

