-- ==== Sys2Proof/Laws/State.lean ====
section
/-! SUPPORT. What each update of the state leaves in each field. -/

namespace Sys2Proof.Machine

/-! ### `State.emit` -/

@[simp] theorem emit_record (s : State) (x : TraceItem) : (s.emit x).record = s.record := rfl
@[simp] theorem emit_con (s : State) (x : TraceItem) : (s.emit x).con = s.con := rfl
@[simp] theorem emit_stat (s : State) (x : TraceItem) : (s.emit x).stat = s.stat := rfl
@[simp] theorem emit_datTx (s : State) (x : TraceItem) : (s.emit x).datTx = s.datTx := rfl
@[simp] theorem emit_datRx (s : State) (x : TraceItem) : (s.emit x).datRx = s.datRx := rfl
@[simp] theorem emit_divLo (s : State) (x : TraceItem) : (s.emit x).divLo = s.divLo := rfl
@[simp] theorem emit_divHi (s : State) (x : TraceItem) : (s.emit x).divHi = s.divHi := rfl
@[simp] theorem emit_handlerRegistered (s : State) (x : TraceItem) : (s.emit x).handlerRegistered = s.handlerRegistered := rfl
@[simp] theorem emit_fatal (s : State) (x : TraceItem) : (s.emit x).fatal = s.fatal := rfl
@[simp] theorem emit_host (s : State) (x : TraceItem) : (s.emit x).host = s.host := rfl
@[simp] theorem emit_ctrl (s : State) (x : TraceItem) : (s.emit x).ctrl = s.ctrl := rfl
@[simp] theorem emit_returned (s : State) (x : TraceItem) : (s.emit x).returned = s.returned := rfl
@[simp] theorem emit_trace (s : State) (x : TraceItem) : (s.emit x).trace = s.trace ++ [x] := rfl
@[simp] theorem emit_agenda (s : State) (x : TraceItem) : (s.emit x).agenda = s.agenda := rfl

/-! ### `State.conSet` -/

@[simp] theorem conSet_record (s : State) (m : Byte) : (s.conSet m).record = s.record := rfl
@[simp] theorem conSet_con (s : State) (m : Byte) : (s.conSet m).con = s.con ||| m := rfl
@[simp] theorem conSet_stat (s : State) (m : Byte) : (s.conSet m).stat = s.stat := rfl
@[simp] theorem conSet_datTx (s : State) (m : Byte) : (s.conSet m).datTx = s.datTx := rfl
@[simp] theorem conSet_datRx (s : State) (m : Byte) : (s.conSet m).datRx = s.datRx := rfl
@[simp] theorem conSet_divLo (s : State) (m : Byte) : (s.conSet m).divLo = s.divLo := rfl
@[simp] theorem conSet_divHi (s : State) (m : Byte) : (s.conSet m).divHi = s.divHi := rfl
@[simp] theorem conSet_handlerRegistered (s : State) (m : Byte) : (s.conSet m).handlerRegistered = s.handlerRegistered := rfl
@[simp] theorem conSet_fatal (s : State) (m : Byte) : (s.conSet m).fatal = s.fatal := rfl
@[simp] theorem conSet_host (s : State) (m : Byte) : (s.conSet m).host = s.host := rfl
@[simp] theorem conSet_ctrl (s : State) (m : Byte) : (s.conSet m).ctrl = s.ctrl := rfl
@[simp] theorem conSet_returned (s : State) (m : Byte) : (s.conSet m).returned = s.returned := rfl
@[simp] theorem conSet_trace (s : State) (m : Byte) : (s.conSet m).trace = s.trace ++ [.conSet m] := rfl
@[simp] theorem conSet_agenda (s : State) (m : Byte) : (s.conSet m).agenda = s.agenda := rfl

/-! ### `State.conClr` -/

@[simp] theorem conClr_record (s : State) (m : Byte) : (s.conClr m).record = s.record := rfl
@[simp] theorem conClr_con (s : State) (m : Byte) : (s.conClr m).con = s.con &&& ~~~m := rfl
@[simp] theorem conClr_stat (s : State) (m : Byte) : (s.conClr m).stat = s.stat := rfl
@[simp] theorem conClr_datTx (s : State) (m : Byte) : (s.conClr m).datTx = s.datTx := rfl
@[simp] theorem conClr_datRx (s : State) (m : Byte) : (s.conClr m).datRx = s.datRx := rfl
@[simp] theorem conClr_divLo (s : State) (m : Byte) : (s.conClr m).divLo = s.divLo := rfl
@[simp] theorem conClr_divHi (s : State) (m : Byte) : (s.conClr m).divHi = s.divHi := rfl
@[simp] theorem conClr_handlerRegistered (s : State) (m : Byte) : (s.conClr m).handlerRegistered = s.handlerRegistered := rfl
@[simp] theorem conClr_fatal (s : State) (m : Byte) : (s.conClr m).fatal = s.fatal := rfl
@[simp] theorem conClr_host (s : State) (m : Byte) : (s.conClr m).host = s.host := rfl
@[simp] theorem conClr_ctrl (s : State) (m : Byte) : (s.conClr m).ctrl = s.ctrl := rfl
@[simp] theorem conClr_returned (s : State) (m : Byte) : (s.conClr m).returned = s.returned := rfl
@[simp] theorem conClr_trace (s : State) (m : Byte) : (s.conClr m).trace = s.trace ++ [.conClr m] := rfl
@[simp] theorem conClr_agenda (s : State) (m : Byte) : (s.conClr m).agenda = s.agenda := rfl

/-! ### `State.datWrite` -/

@[simp] theorem datWrite_record (s : State) (v : Byte) : (s.datWrite v).record = s.record := rfl
@[simp] theorem datWrite_con (s : State) (v : Byte) : (s.datWrite v).con = s.con := rfl
@[simp] theorem datWrite_stat (s : State) (v : Byte) : (s.datWrite v).stat = s.stat := rfl
@[simp] theorem datWrite_datTx (s : State) (v : Byte) : (s.datWrite v).datTx = v := rfl
@[simp] theorem datWrite_datRx (s : State) (v : Byte) : (s.datWrite v).datRx = s.datRx := rfl
@[simp] theorem datWrite_divLo (s : State) (v : Byte) : (s.datWrite v).divLo = s.divLo := rfl
@[simp] theorem datWrite_divHi (s : State) (v : Byte) : (s.datWrite v).divHi = s.divHi := rfl
@[simp] theorem datWrite_handlerRegistered (s : State) (v : Byte) : (s.datWrite v).handlerRegistered = s.handlerRegistered := rfl
@[simp] theorem datWrite_fatal (s : State) (v : Byte) : (s.datWrite v).fatal = s.fatal := rfl
@[simp] theorem datWrite_host (s : State) (v : Byte) : (s.datWrite v).host = s.host := rfl
@[simp] theorem datWrite_ctrl (s : State) (v : Byte) : (s.datWrite v).ctrl = s.ctrl := rfl
@[simp] theorem datWrite_returned (s : State) (v : Byte) : (s.datWrite v).returned = s.returned := rfl
@[simp] theorem datWrite_trace (s : State) (v : Byte) : (s.datWrite v).trace = s.trace ++ [.datWrite v] := rfl
@[simp] theorem datWrite_agenda (s : State) (v : Byte) : (s.datWrite v).agenda = s.agenda := rfl

/-! ### `State.divWrite` -/

@[simp] theorem divWrite_record (s : State) (d : Nat × Nat) : (s.divWrite d).record = s.record := rfl
@[simp] theorem divWrite_con (s : State) (d : Nat × Nat) : (s.divWrite d).con = s.con := rfl
@[simp] theorem divWrite_stat (s : State) (d : Nat × Nat) : (s.divWrite d).stat = s.stat := rfl
@[simp] theorem divWrite_datTx (s : State) (d : Nat × Nat) : (s.divWrite d).datTx = s.datTx := rfl
@[simp] theorem divWrite_datRx (s : State) (d : Nat × Nat) : (s.divWrite d).datRx = s.datRx := rfl
@[simp] theorem divWrite_divLo (s : State) (d : Nat × Nat) : (s.divWrite d).divLo = d.1 := rfl
@[simp] theorem divWrite_divHi (s : State) (d : Nat × Nat) : (s.divWrite d).divHi = d.2 := rfl
@[simp] theorem divWrite_handlerRegistered (s : State) (d : Nat × Nat) : (s.divWrite d).handlerRegistered = s.handlerRegistered := rfl
@[simp] theorem divWrite_fatal (s : State) (d : Nat × Nat) : (s.divWrite d).fatal = s.fatal := rfl
@[simp] theorem divWrite_host (s : State) (d : Nat × Nat) : (s.divWrite d).host = s.host := rfl
@[simp] theorem divWrite_ctrl (s : State) (d : Nat × Nat) : (s.divWrite d).ctrl = s.ctrl := rfl
@[simp] theorem divWrite_returned (s : State) (d : Nat × Nat) : (s.divWrite d).returned = s.returned := rfl
@[simp] theorem divWrite_trace (s : State) (d : Nat × Nat) : (s.divWrite d).trace = s.trace ++ [.divWrite d.1 d.2] := rfl
@[simp] theorem divWrite_agenda (s : State) (d : Nat × Nat) : (s.divWrite d).agenda = s.agenda := rfl

/-! ### `State.setBusy` -/

@[simp] theorem setBusy_record (s : State) (b : Bool) : (s.setBusy b).record = { s.record with busy := b } := rfl
@[simp] theorem setBusy_con (s : State) (b : Bool) : (s.setBusy b).con = s.con := rfl
@[simp] theorem setBusy_stat (s : State) (b : Bool) : (s.setBusy b).stat = s.stat := rfl
@[simp] theorem setBusy_datTx (s : State) (b : Bool) : (s.setBusy b).datTx = s.datTx := rfl
@[simp] theorem setBusy_datRx (s : State) (b : Bool) : (s.setBusy b).datRx = s.datRx := rfl
@[simp] theorem setBusy_divLo (s : State) (b : Bool) : (s.setBusy b).divLo = s.divLo := rfl
@[simp] theorem setBusy_divHi (s : State) (b : Bool) : (s.setBusy b).divHi = s.divHi := rfl
@[simp] theorem setBusy_handlerRegistered (s : State) (b : Bool) : (s.setBusy b).handlerRegistered = s.handlerRegistered := rfl
@[simp] theorem setBusy_fatal (s : State) (b : Bool) : (s.setBusy b).fatal = s.fatal := rfl
@[simp] theorem setBusy_host (s : State) (b : Bool) : (s.setBusy b).host = s.host := rfl
@[simp] theorem setBusy_ctrl (s : State) (b : Bool) : (s.setBusy b).ctrl = s.ctrl := rfl
@[simp] theorem setBusy_returned (s : State) (b : Bool) : (s.setBusy b).returned = s.returned := rfl
@[simp] theorem setBusy_trace (s : State) (b : Bool) : (s.setBusy b).trace = s.trace := rfl
@[simp] theorem setBusy_agenda (s : State) (b : Bool) : (s.setBusy b).agenda = s.agenda := rfl

/-! ### `State.setStatus` -/

@[simp] theorem setStatus_record (s : State) (v : Status) : (s.setStatus v).record = { s.record with status := v } := rfl
@[simp] theorem setStatus_con (s : State) (v : Status) : (s.setStatus v).con = s.con := rfl
@[simp] theorem setStatus_stat (s : State) (v : Status) : (s.setStatus v).stat = s.stat := rfl
@[simp] theorem setStatus_datTx (s : State) (v : Status) : (s.setStatus v).datTx = s.datTx := rfl
@[simp] theorem setStatus_datRx (s : State) (v : Status) : (s.setStatus v).datRx = s.datRx := rfl
@[simp] theorem setStatus_divLo (s : State) (v : Status) : (s.setStatus v).divLo = s.divLo := rfl
@[simp] theorem setStatus_divHi (s : State) (v : Status) : (s.setStatus v).divHi = s.divHi := rfl
@[simp] theorem setStatus_handlerRegistered (s : State) (v : Status) : (s.setStatus v).handlerRegistered = s.handlerRegistered := rfl
@[simp] theorem setStatus_fatal (s : State) (v : Status) : (s.setStatus v).fatal = s.fatal := rfl
@[simp] theorem setStatus_host (s : State) (v : Status) : (s.setStatus v).host = s.host := rfl
@[simp] theorem setStatus_ctrl (s : State) (v : Status) : (s.setStatus v).ctrl = s.ctrl := rfl
@[simp] theorem setStatus_returned (s : State) (v : Status) : (s.setStatus v).returned = s.returned := rfl
@[simp] theorem setStatus_trace (s : State) (v : Status) : (s.setStatus v).trace = s.trace := rfl
@[simp] theorem setStatus_agenda (s : State) (v : Status) : (s.setStatus v).agenda = s.agenda := rfl

/-! ### `State.setOperation` -/

@[simp] theorem setOperation_record (s : State) (d : Direction) : (s.setOperation d).record = { s.record with operation := d } := rfl
@[simp] theorem setOperation_con (s : State) (d : Direction) : (s.setOperation d).con = s.con := rfl
@[simp] theorem setOperation_stat (s : State) (d : Direction) : (s.setOperation d).stat = s.stat := rfl
@[simp] theorem setOperation_datTx (s : State) (d : Direction) : (s.setOperation d).datTx = s.datTx := rfl
@[simp] theorem setOperation_datRx (s : State) (d : Direction) : (s.setOperation d).datRx = s.datRx := rfl
@[simp] theorem setOperation_divLo (s : State) (d : Direction) : (s.setOperation d).divLo = s.divLo := rfl
@[simp] theorem setOperation_divHi (s : State) (d : Direction) : (s.setOperation d).divHi = s.divHi := rfl
@[simp] theorem setOperation_handlerRegistered (s : State) (d : Direction) : (s.setOperation d).handlerRegistered = s.handlerRegistered := rfl
@[simp] theorem setOperation_fatal (s : State) (d : Direction) : (s.setOperation d).fatal = s.fatal := rfl
@[simp] theorem setOperation_host (s : State) (d : Direction) : (s.setOperation d).host = s.host := rfl
@[simp] theorem setOperation_ctrl (s : State) (d : Direction) : (s.setOperation d).ctrl = s.ctrl := rfl
@[simp] theorem setOperation_returned (s : State) (d : Direction) : (s.setOperation d).returned = s.returned := rfl
@[simp] theorem setOperation_trace (s : State) (d : Direction) : (s.setOperation d).trace = s.trace := rfl
@[simp] theorem setOperation_agenda (s : State) (d : Direction) : (s.setOperation d).agenda = s.agenda := rfl

/-! ### `State.setPosition` -/

@[simp] theorem setPosition_record (s : State) (p : Nat) : (s.setPosition p).record = { s.record with position := p } := rfl
@[simp] theorem setPosition_con (s : State) (p : Nat) : (s.setPosition p).con = s.con := rfl
@[simp] theorem setPosition_stat (s : State) (p : Nat) : (s.setPosition p).stat = s.stat := rfl
@[simp] theorem setPosition_datTx (s : State) (p : Nat) : (s.setPosition p).datTx = s.datTx := rfl
@[simp] theorem setPosition_datRx (s : State) (p : Nat) : (s.setPosition p).datRx = s.datRx := rfl
@[simp] theorem setPosition_divLo (s : State) (p : Nat) : (s.setPosition p).divLo = s.divLo := rfl
@[simp] theorem setPosition_divHi (s : State) (p : Nat) : (s.setPosition p).divHi = s.divHi := rfl
@[simp] theorem setPosition_handlerRegistered (s : State) (p : Nat) : (s.setPosition p).handlerRegistered = s.handlerRegistered := rfl
@[simp] theorem setPosition_fatal (s : State) (p : Nat) : (s.setPosition p).fatal = s.fatal := rfl
@[simp] theorem setPosition_host (s : State) (p : Nat) : (s.setPosition p).host = s.host := rfl
@[simp] theorem setPosition_ctrl (s : State) (p : Nat) : (s.setPosition p).ctrl = s.ctrl := rfl
@[simp] theorem setPosition_returned (s : State) (p : Nat) : (s.setPosition p).returned = s.returned := rfl
@[simp] theorem setPosition_trace (s : State) (p : Nat) : (s.setPosition p).trace = s.trace := rfl
@[simp] theorem setPosition_agenda (s : State) (p : Nat) : (s.setPosition p).agenda = s.agenda := rfl

/-! ### `State.latch` -/

@[simp] theorem latch_record (s : State) (f : Fault) : (s.latch f).record = s.record := rfl
@[simp] theorem latch_con (s : State) (f : Fault) : (s.latch f).con = s.con := rfl
@[simp] theorem latch_stat (s : State) (f : Fault) : (s.latch f).stat = s.stat := rfl
@[simp] theorem latch_datTx (s : State) (f : Fault) : (s.latch f).datTx = s.datTx := rfl
@[simp] theorem latch_datRx (s : State) (f : Fault) : (s.latch f).datRx = s.datRx := rfl
@[simp] theorem latch_divLo (s : State) (f : Fault) : (s.latch f).divLo = s.divLo := rfl
@[simp] theorem latch_divHi (s : State) (f : Fault) : (s.latch f).divHi = s.divHi := rfl
@[simp] theorem latch_handlerRegistered (s : State) (f : Fault) : (s.latch f).handlerRegistered = s.handlerRegistered := rfl
@[simp] theorem latch_fatal (s : State) (f : Fault) : (s.latch f).fatal = some f := rfl
@[simp] theorem latch_host (s : State) (f : Fault) : (s.latch f).host = s.host := rfl
@[simp] theorem latch_ctrl (s : State) (f : Fault) : (s.latch f).ctrl = s.ctrl := rfl
@[simp] theorem latch_returned (s : State) (f : Fault) : (s.latch f).returned = s.returned := rfl
@[simp] theorem latch_trace (s : State) (f : Fault) : (s.latch f).trace = s.trace ++ [.fault f] := rfl
@[simp] theorem latch_agenda (s : State) (f : Fault) : (s.latch f).agenda = s.agenda := rfl

/-! ### `State.goto` -/

@[simp] theorem goto_record (s : State) (h : HostPoint) : (s.goto h).record = s.record := rfl
@[simp] theorem goto_con (s : State) (h : HostPoint) : (s.goto h).con = s.con := rfl
@[simp] theorem goto_stat (s : State) (h : HostPoint) : (s.goto h).stat = s.stat := rfl
@[simp] theorem goto_datTx (s : State) (h : HostPoint) : (s.goto h).datTx = s.datTx := rfl
@[simp] theorem goto_datRx (s : State) (h : HostPoint) : (s.goto h).datRx = s.datRx := rfl
@[simp] theorem goto_divLo (s : State) (h : HostPoint) : (s.goto h).divLo = s.divLo := rfl
@[simp] theorem goto_divHi (s : State) (h : HostPoint) : (s.goto h).divHi = s.divHi := rfl
@[simp] theorem goto_handlerRegistered (s : State) (h : HostPoint) : (s.goto h).handlerRegistered = s.handlerRegistered := rfl
@[simp] theorem goto_fatal (s : State) (h : HostPoint) : (s.goto h).fatal = s.fatal := rfl
@[simp] theorem goto_host (s : State) (h : HostPoint) : (s.goto h).host = h := rfl
@[simp] theorem goto_ctrl (s : State) (h : HostPoint) : (s.goto h).ctrl = s.ctrl := rfl
@[simp] theorem goto_returned (s : State) (h : HostPoint) : (s.goto h).returned = s.returned := rfl
@[simp] theorem goto_trace (s : State) (h : HostPoint) : (s.goto h).trace = s.trace := rfl
@[simp] theorem goto_agenda (s : State) (h : HostPoint) : (s.goto h).agenda = s.agenda := rfl

/-! ### `State.giveBack` -/

@[simp] theorem giveBack_record (s : State) (r : HostReturn) : (s.giveBack r).record = s.record := rfl
@[simp] theorem giveBack_con (s : State) (r : HostReturn) : (s.giveBack r).con = s.con := rfl
@[simp] theorem giveBack_stat (s : State) (r : HostReturn) : (s.giveBack r).stat = s.stat := rfl
@[simp] theorem giveBack_datTx (s : State) (r : HostReturn) : (s.giveBack r).datTx = s.datTx := rfl
@[simp] theorem giveBack_datRx (s : State) (r : HostReturn) : (s.giveBack r).datRx = s.datRx := rfl
@[simp] theorem giveBack_divLo (s : State) (r : HostReturn) : (s.giveBack r).divLo = s.divLo := rfl
@[simp] theorem giveBack_divHi (s : State) (r : HostReturn) : (s.giveBack r).divHi = s.divHi := rfl
@[simp] theorem giveBack_handlerRegistered (s : State) (r : HostReturn) : (s.giveBack r).handlerRegistered = s.handlerRegistered := rfl
@[simp] theorem giveBack_fatal (s : State) (r : HostReturn) : (s.giveBack r).fatal = s.fatal := rfl
@[simp] theorem giveBack_host (s : State) (r : HostReturn) : (s.giveBack r).host = .idle := rfl
@[simp] theorem giveBack_ctrl (s : State) (r : HostReturn) : (s.giveBack r).ctrl = s.ctrl := rfl
@[simp] theorem giveBack_returned (s : State) (r : HostReturn) : (s.giveBack r).returned = some r := rfl
@[simp] theorem giveBack_trace (s : State) (r : HostReturn) : (s.giveBack r).trace = s.trace := rfl
@[simp] theorem giveBack_agenda (s : State) (r : HostReturn) : (s.giveBack r).agenda = s.agenda := rfl

end Sys2Proof.Machine
end

