-- ==== Sys2Proof/Laws/Ops.lean ====
section
/-! SUPPORT. One lemma per shared operation, saying everything it can do; the statements' proofs cite these instead of
unfolding the operations. -/

namespace Sys2Proof.Machine

/-! ### The two frames -/

theorem eventEnabled_iff (s : State) : s.eventEnabled = true ↔ s.handlerRegistered = true ∧ s.con.getLsbD 3 = true := by
  simp [State.eventEnabled, State.si]

/-- An enabled event step completes with what its row ended in (R81). -/
theorem eventStep_ready {s : State} (h : EventReady s) (code : Byte) (row : State → RowResult) :
    eventStep code row s = .next (finishEvent (row (s.emit (.statRead code)))) := by
  obtain ⟨hr, hsi, hf⟩ := h
  unfold eventStep
  rw [hf]
  exact if_pos ((eventEnabled_iff s).mpr ⟨hr, hsi⟩)

/-- And only an enabled one does. -/
theorem eventStep_next_iff {s t : State} {code : Byte} {row : State → RowResult} :
    eventStep code row s = .next t ↔ EventReady s ∧ t = finishEvent (row (s.emit (.statRead code))) := by
  constructor
  · intro h
    unfold eventStep at h
    split at h
    · cases h
    · next hf =>
      split at h
      · next he =>
        obtain ⟨hr, hsi⟩ := (eventEnabled_iff s).mp he
        exact ⟨⟨hr, hsi, hf⟩, by injection h with h; exact h.symm⟩
      · cases h
  · rintro ⟨hr, rfl⟩
    exact eventStep_ready hr code row

/-- An event step that is not enabled is refused; a latched fault stops it. -/
theorem eventStep_cases (s : State) (code : Byte) (row : State → RowResult) :
    (EventReady s ∧ eventStep code row s = .next (finishEvent (row (s.emit (.statRead code))))) ∨
    (∃ f, s.fatal = some f ∧ eventStep code row s = .fault f) ∨
    (s.fatal = none ∧ ¬ EventReady s ∧ eventStep code row s = .refused .eventNotEnabled) := by
  rcases hf : s.fatal with _ | f
  · by_cases he : s.eventEnabled = true
    · obtain ⟨hr, hsi⟩ := (eventEnabled_iff s).mp he
      exact .inl ⟨⟨hr, hsi, hf⟩, eventStep_ready ⟨hr, hsi, hf⟩ code row⟩
    · refine .inr (.inr ⟨rfl, fun h => he ((eventEnabled_iff s).mpr ⟨h.1, h.2.1⟩), ?_⟩)
      unfold eventStep
      rw [hf]
      exact if_neg he
  · exact .inr (.inl ⟨f, rfl, by unfold eventStep; rw [hf]⟩)

theorem finishEvent_done (s : State) (set clr : Byte) :
    finishEvent (.done s set clr) =
      { s with con := (s.con ||| set) &&& ~~~clr, trace := s.trace ++ [.conSet set, .conClr clr] } := by
  simp [finishEvent, State.conSet, State.conClr, State.emit, setBits, clrBits]

theorem finishEvent_raised (s : State) (f : Fault) :
    finishEvent (.raised s f) = { s with fatal := some f, trace := s.trace ++ [.fault f] } := rfl

/-- Without a latched fault a host micro-step is its body. -/
theorem hostStep_none {s : State} (h : s.fatal = none) (body : State → Host.Outcome State Fault Refusal) :
    hostStep body s = body s := by
  unfold hostStep; rw [h]

theorem hostStep_next_iff {s t : State} {body : State → Host.Outcome State Fault Refusal} :
    hostStep body s = .next t ↔ s.fatal = none ∧ body s = .next t := by
  unfold hostStep
  rcases s.fatal with _ | f <;> simp

/-! ### Buffer accesses -/

/-- A read is admitted exactly below the length of a bound buffer (R46, R48). -/
theorem memRead_ok_iff {s : State} {i : Nat} {v : Byte} :
    s.memRead i = .ok v ↔ ∃ m, s.record.dataOut = some m ∧ i < s.record.outLength ∧ v = m.read i := by
  unfold State.memRead
  rcases s.record.dataOut with _ | m
  · simp
  · by_cases h : i < s.record.outLength <;> simp [h, eq_comm]

theorem memRead_error {s : State} {i : Nat} {f : Fault} (h : s.memRead i = .error f) :
    f = .bufferBounds .out i s.record.outLength ∧ (s.record.dataOut = none ∨ s.record.outLength ≤ i) := by
  unfold State.memRead at h
  rcases hd : s.record.dataOut with _ | m <;> rw [hd] at h
  · simp_all
  · by_cases hi : i < s.record.outLength <;> simp [hi] at h
    exact ⟨h.symm, .inr (by omega)⟩

/-- Sending the next byte: admitted, or refused with the bounds fault (R76, R48). -/
theorem sendNext_cases (s : State) :
    (∃ m, s.record.dataOut = some m ∧ s.record.position < s.record.outLength ∧
      s.sendNext = .ok { s with
        record := { s.record with position := s.record.position + 1 }
        datTx := m.read s.record.position
        trace := s.trace ++ [.memRead s.record.position (m.read s.record.position),
          .datWrite (m.read s.record.position)] }) ∨
    ((s.record.dataOut = none ∨ s.record.outLength ≤ s.record.position) ∧
      s.sendNext = .error (.bufferBounds .out s.record.position s.record.outLength)) := by
  rcases h : s.memRead s.record.position with f | v
  · obtain ⟨rfl, hb⟩ := memRead_error h
    exact .inr ⟨hb, by simp [State.sendNext, h]⟩
  · obtain ⟨m, hm, hi, rfl⟩ := memRead_ok_iff.mp h
    refine .inl ⟨m, hm, hi, ?_⟩
    simp [State.sendNext, h, State.emit, State.datWrite, State.setPosition]

/-- Storing the next byte: admitted, or refused with the bounds fault (R76, R48). -/
theorem storeNext_cases (s : State) :
    (∃ m, s.record.dataIn = some m ∧ s.record.position < s.record.inLength ∧
      s.storeNext = .ok { s with
        record := { s.record with
          dataIn := some (m.write s.record.position s.datRx)
          position := s.record.position + 1 }
        trace := s.trace ++ [.datRead s.datRx, .memWrite s.record.position s.datRx] }) ∨
    ((s.record.dataIn = none ∨ s.record.inLength ≤ s.record.position) ∧
      s.storeNext = .error (.bufferBounds .in s.record.position s.record.inLength)) := by
  rcases hd : s.record.dataIn with _ | m
  · exact .inr ⟨.inl rfl, by simp [State.storeNext, State.memWrite, hd]⟩
  · by_cases hi : s.record.position < s.record.inLength
    · refine .inl ⟨m, rfl, hi, ?_⟩
      simp [State.storeNext, State.memWrite, hd, hi, State.emit, State.setPosition]
    · exact .inr ⟨.inr (by omega), by simp [State.storeNext, State.memWrite, hd, hi]⟩

/-- `State.sendNext` in one piece. -/
theorem sendNext_eq (s : State) : s.sendNext = match s.record.dataOut with
    | some m =>
      if s.record.position < s.record.outLength then .ok { s with
        record := { s.record with position := s.record.position + 1 }
        datTx := m.read s.record.position
        trace := s.trace ++ [.memRead s.record.position (m.read s.record.position),
          .datWrite (m.read s.record.position)] }
      else .error (.bufferBounds .out s.record.position s.record.outLength)
    | none => .error (.bufferBounds .out s.record.position s.record.outLength) := by
  rcases hd : s.record.dataOut with _ | m
  · simp [State.sendNext, State.memRead, hd]
  · by_cases h : s.record.position < s.record.outLength <;>
      simp [State.sendNext, State.memRead, hd, h, State.emit, State.datWrite, State.setPosition]

/-- `State.storeNext` in one piece. -/
theorem storeNext_eq (s : State) : s.storeNext = match s.record.dataIn with
    | some m =>
      if s.record.position < s.record.inLength then .ok { s with
        record := { s.record with
          dataIn := some (m.write s.record.position s.datRx)
          position := s.record.position + 1 }
        trace := s.trace ++ [.datRead s.datRx, .memWrite s.record.position s.datRx] }
      else .error (.bufferBounds .in s.record.position s.record.inLength)
    | none => .error (.bufferBounds .in s.record.position s.record.inLength) := by
  rcases hd : s.record.dataIn with _ | m
  · simp [State.storeNext, State.memWrite, hd]
  · by_cases h : s.record.position < s.record.inLength <;>
      simp [State.storeNext, State.memWrite, hd, h, State.emit, State.setPosition]

/-! ### The events as one frame and one row each -/

/-- The row of an event; a host command has none. -/
def rowOf : Instr → State → RowResult
  | .busError => rowBusError
  | .start => rowStart
  | .repStart => rowRepStart
  | .slawAck => rowSlawAck
  | .slawNack => rowSlawNack
  | .txdataAck => rowTxdataAck
  | .txdataNack => rowTxdataNack
  | .arbLost => rowArbLost
  | .slarAck => rowSlarAck
  | .slarNack => rowSlarNack
  | .rxdataAck => rowRxdataAck
  | .rxdataNack => rowRxdataNack
  | .slaveAddr => rowSlaveAddr
  | .noState => rowNoState
  | .unknown code => rowUnknown code
  | .initialise _ | .isInitialized | .submitTransaction _ | .wait _ | .timeoutAbort | .returnStatus =>
    fun s => .done s 0 0

/-- Executing an event is the event step of its code and its row (R81). -/
theorem exec_event {i : Instr} {code : Byte} (h : encodeByte i = some code) (s : State) :
    exec i s = eventStep code (rowOf i) s := by
  cases i <;> simp_all [encodeByte] <;> subst h <;> rfl

/-- The pairs of a set mask and a clear mask in the table of R69. -/
def maskTable : List (Byte × Byte) :=
  [(0x14, 0x08), (0x00, 0x08), (0x10, 0x28), (0x00, 0x28), (0x20, 0x08), (0x10, 0x08), (0x00, 0x2C), (0x04, 0x28),
   (0x00, 0x0C), (0x04, 0x08)]

/-- The masks an event row can build (R69). -/
abbrev RowMasks (set clr : Byte) : Prop := (set, clr) ∈ maskTable

/-- What any row leaves alone: everything but `DAT`, the trace, and five fields of the record. -/
structure RowFrame (s t : State) : Prop where
  address : t.record.address = s.record.address
  dataOut : t.record.dataOut = s.record.dataOut
  outLength : t.record.outLength = s.record.outLength
  inLength : t.record.inLength = s.record.inLength
  repeated : t.record.repeated = s.record.repeated
  timeout : t.record.timeout = s.record.timeout
  con : t.con = s.con
  stat : t.stat = s.stat
  datRx : t.datRx = s.datRx
  divLo : t.divLo = s.divLo
  divHi : t.divHi = s.divHi
  handlerRegistered : t.handlerRegistered = s.handlerRegistered
  fatal : t.fatal = s.fatal
  host : t.host = s.host
  ctrl : t.ctrl = s.ctrl
  returned : t.returned = s.returned
  agenda : t.agenda = s.agenda
  trace : ∃ items, t.trace = s.trace ++ items ∧ ∀ x ∈ items, ∀ v, x ≠ .returned v

/-- The state a row ended in. -/
def RowResult.state : RowResult → State
  | .done s _ _ => s
  | .raised s _ => s

theorem rowFrame_of_trace {s t : State} (items : List TraceItem) (ht : t.trace = s.trace ++ items)
    (hi : ∀ x ∈ items, ∀ v, x ≠ .returned v)
    (hr : t.record = { s.record with
      operation := t.record.operation, dataIn := t.record.dataIn, position := t.record.position,
      busy := t.record.busy, status := t.record.status })
    (h : t = { s with record := t.record, datTx := t.datTx, trace := t.trace }) : RowFrame s t := by
  rw [h]
  exact ⟨congrArg (·.address) hr, congrArg (·.dataOut) hr, congrArg (·.outLength) hr, congrArg (·.inLength) hr,
    congrArg (·.repeated) hr, congrArg (·.timeout) hr, rfl, rfl, rfl, rfl, rfl, rfl, rfl, rfl, rfl, rfl, rfl, items, ht, hi⟩

theorem RowFrame.refl (s : State) : RowFrame s s :=
  rowFrame_of_trace [] (List.append_nil _).symm (by simp) rfl rfl

/-- The frame of an event step writes no record field. -/
theorem finishEvent_record (r : RowResult) : (finishEvent r).record = r.state.record := by cases r <;> rfl

/-- The frame of every row (R35, R84). -/
theorem rowOf_frame (i : Instr) (s : State) : RowFrame s (rowOf i s).state := by
  cases i with
  | busError | slawNack | txdataNack | arbLost | slarAck | slarNack | slaveAddr | noState
  | initialise | isInitialized | submitTransaction | wait | timeoutAbort | returnStatus =>
    exact rowFrame_of_trace [] (List.append_nil _).symm (by simp) rfl rfl
  | unknown code => exact RowFrame.refl s
  | start => exact rowFrame_of_trace [.datWrite (addrByte s.record)] rfl (by simp) rfl rfl
  | repStart => exact rowFrame_of_trace [.datWrite _] rfl (by simp) rfl rfl
  | slawAck =>
    simp only [rowOf, rowSlawAck]
    split
    · exact rowFrame_of_trace [] (List.append_nil _).symm (by simp) rfl rfl
    · rcases sendNext_cases s with ⟨m, -, -, h⟩ | ⟨-, h⟩ <;> rw [h]
      · exact rowFrame_of_trace _ rfl (by simp) rfl rfl
      · exact RowFrame.refl s
  | txdataAck =>
    simp only [rowOf, rowTxdataAck]
    split
    · split <;> exact rowFrame_of_trace [] (List.append_nil _).symm (by simp) rfl rfl
    · rcases sendNext_cases s with ⟨m, -, -, h⟩ | ⟨-, h⟩ <;> rw [h]
      · exact rowFrame_of_trace _ rfl (by simp) rfl rfl
      · exact RowFrame.refl s
  | rxdataAck =>
    simp only [rowOf, rowRxdataAck]
    split
    · rcases storeNext_cases s with ⟨m, -, -, h⟩ | ⟨-, h⟩ <;> rw [h]
      · simp only [lookAhead]
        split <;> exact rowFrame_of_trace _ rfl (by simp) rfl rfl
      · exact RowFrame.refl s
    · simp only [lookAhead]
      split
      · exact rowFrame_of_trace [] (List.append_nil _).symm (by simp) rfl rfl
      · exact RowFrame.refl s
  | rxdataNack =>
    simp only [rowOf, rowRxdataNack]
    split
    · rcases storeNext_cases (s.setBusy false) with ⟨m, -, -, h⟩ | ⟨-, h⟩ <;> rw [h]
      · exact rowFrame_of_trace _ rfl (by simp) rfl rfl
      · exact rowFrame_of_trace [] (List.append_nil _).symm (by simp) rfl rfl
    · exact rowFrame_of_trace [] (List.append_nil _).symm (by simp) rfl rfl

/-- An event row that is done has built one of the pairs of masks of R69. -/
theorem rowOf_masks {i : Instr} {s t : State} {set clr : Byte} (hi : i.isEvent = true)
    (h : rowOf i s = .done t set clr) : RowMasks set clr := by
  cases i <;> simp only [Instr.isEvent, encodeByte, Option.isSome_none, Bool.false_eq_true] at hi <;>
    simp only [rowOf, rowBusError, rowStart, rowRepStart, rowSlawAck, rowSlawNack, rowTxdataAck, rowTxdataNack, rowArbLost,
      rowSlarAck, slarAckMasks, rowSlarNack, rowRxdataAck, lookAhead, rowRxdataNack, rowSlaveAddr, rowNoState,
      rowUnknown] at h
  all_goals
    repeat' split at h
    all_goals first
      | (cases h; done)
      | (injection h with _ h2 h3; subst h2 h3; decide)

/-- An event that completes without raising a fault (R81, R83). -/
theorem exec_event_next {i : Instr} {s t : State} (hi : i.isEvent = true) (h : exec i s = .next t) :
    EventReady s ∧ ∃ code, encodeByte i = some code ∧ t = finishEvent (rowOf i (s.emit (.statRead code))) := by
  obtain ⟨code, hc⟩ := Option.isSome_iff_exists.mp hi
  rw [exec_event hc, eventStep_next_iff] at h
  exact ⟨h.1, code, hc, h.2⟩

/-- What executing an event can do: its row is done and the frame applies two masks of R69, or its row raised a fault
and the frame latches it. -/
theorem exec_event_cases {i : Instr} {s t : State} (hi : i.isEvent = true) (h : exec i s = .next t) :
    EventReady s ∧ ∃ code, encodeByte i = some code ∧
      ((∃ u set clr, rowOf i (s.emit (.statRead code)) = .done u set clr ∧ RowMasks set clr ∧
          RowFrame (s.emit (.statRead code)) u ∧
          t = { u with con := (u.con ||| set) &&& ~~~clr, trace := u.trace ++ [.conSet set, .conClr clr] }) ∨
       (∃ u f, rowOf i (s.emit (.statRead code)) = .raised u f ∧ RowFrame (s.emit (.statRead code)) u ∧
          t = { u with fatal := some f, trace := u.trace ++ [.fault f] })) := by
  obtain ⟨hr, code, hc, rfl⟩ := exec_event_next hi h
  refine ⟨hr, code, hc, ?_⟩
  have hframe := rowOf_frame i (s.emit (.statRead code))
  rcases hrow : rowOf i (s.emit (.statRead code)) with ⟨u, set, clr⟩ | ⟨u, f⟩ <;> rw [hrow] at hframe
  · exact .inl ⟨u, set, clr, rfl, rowOf_masks hi hrow, hframe, finishEvent_done _ _ _⟩
  · exact .inr ⟨u, f, rfl, hframe, finishEvent_raised _ _⟩

/-- The masks of R69 share no bit, the clear mask names `SI`, and neither names a bit above 5 or below 2. -/
theorem RowMasks.bits {set clr : Byte} (h : RowMasks set clr) :
    set &&& clr = 0#8 ∧ clr &&& 0x08#8 = 0x08#8 ∧ set &&& 0xCB#8 = 0#8 ∧ clr &&& 0xD3#8 = 0#8 := by
  have table : ∀ p ∈ maskTable,
      p.1 &&& p.2 = 0#8 ∧ p.2 &&& 0x08#8 = 0x08#8 ∧ p.1 &&& 0xCB#8 = 0#8 ∧ p.2 &&& 0xD3#8 = 0#8 := by simp [maskTable]
  exact table (set, clr) h

/-- So a row's masks touch neither the reserved bits nor `I2EN` (R30, R31). -/
theorem RowMasks.untouched {set clr : Byte} (h : RowMasks set clr) :
    set &&& 0x83#8 = 0#8 ∧ clr &&& 0xC3#8 = 0#8 ∧ set.getLsbD 6 = false := by
  have table : ∀ p ∈ maskTable, p.1 &&& 0x83#8 = 0#8 ∧ p.2 &&& 0xC3#8 = 0#8 ∧ p.1.getLsbD 6 = false := by
    simp [maskTable]
  exact table (set, clr) h

/-! ### The controller and the step -/

/-- What the controller's turn can do. -/
theorem ctrlStep_cases {a : CtrlAct} {s t : State} (h : ctrlStep a s = .next t) :
    (∃ code rx, a = .raise code rx ∧ s.si = false ∧
      t = { s with stat := code, datRx := rx, con := s.con ||| 0x08#8, ctrl := .reported code }) ∨
    (a = .look ∧ t = { s with ctrl := s.lookedAt }) ∨
    (a = .finishStop ∧ t = { s with con := s.con &&& ~~~0x10#8, ctrl := .idle }) ∨
    (a = .stopThenStart ∧ t = { s with con := s.con &&& ~~~0x10#8, ctrl := .starting }) ∨
    (a = .goIdle ∧ t = { s with ctrl := .idle }) := by
  cases a with
  | raise code rx =>
    simp only [ctrlStep] at h
    split at h
    · cases h
    · next hsi => exact .inl ⟨code, rx, rfl, by simpa using hsi, by injection h with h; exact h.symm⟩
  | look => injection h with h; exact .inr (.inl ⟨rfl, h.symm⟩)
  | finishStop => injection h with h; exact .inr (.inr (.inl ⟨rfl, h.symm⟩))
  | stopThenStart => injection h with h; exact .inr (.inr (.inr (.inl ⟨rfl, h.symm⟩)))
  | goIdle => injection h with h; exact .inr (.inr (.inr (.inr ⟨rfl, h.symm⟩)))

/-- What a step that completes has done: nothing, or the turn at the head of the agenda. -/
theorem step_cases {s t : State} (h : step s = .next t) :
    s.fatal = none ∧
    ((s.agenda = [] ∧ t = s) ∨
     (∃ rest, s.agenda = .isr :: rest ∧ exec s.pendingInstr { s with agenda := rest } = .next t) ∨
     (∃ i rest, s.agenda = .host i :: rest ∧ i.isEvent = false ∧ exec i { s with agenda := rest } = .next t) ∨
     (∃ a rest, s.agenda = .ctrl a :: rest ∧ ctrlStep a { s with agenda := rest } = .next t)) := by
  unfold step at h
  split at h
  · cases h
  next hf =>
  refine ⟨hf, ?_⟩
  split at h
  · next ha => exact .inl ⟨ha, by injection h with h; exact h.symm⟩
  next u rest ha =>
  cases u with
  | isr => exact .inr (.inl ⟨rest, ha, h⟩)
  | host i =>
    simp only [takeTurn] at h
    split at h
    · cases h
    · next hi => exact .inr (.inr (.inl ⟨i, rest, ha, by simpa using hi, h⟩))
  | ctrl a => exact .inr (.inr (.inr ⟨a, rest, ha, h⟩))

/-- The code in `STAT` always selects an event (R67). -/
theorem decodeByte_isEvent (c : Byte) : (decodeByte c).isEvent = true := by
  revert c; decide

end Sys2Proof.Machine
end

