-- ==== Sys2Proof/Laws/Host.lean ====
section
/-! SUPPORT. What a host command that completes has done: one case per micro-step. -/

namespace Sys2Proof.Machine

/-- The micro-steps, each with the point of the foreground it is taken from (R37 d, R57). -/
inductive HostEffect : Instr → State → State → Prop where
  | i1Ok (a s) (hh : s.host = .idle) (hadm : s.initialiseAdmitted = true) (hp : a.pinFailure = none) :
      HostEffect (.initialise a) s { s with host := .initPower, trace := s.trace ++ pinItems none }
  | i1Fail (a s) (k : Fin 6) (hh : s.host = .idle) (hadm : s.initialiseAdmitted = true) (hp : a.pinFailure = some k) :
      HostEffect (.initialise a) s
        { s with host := .idle, returned := some .failure, trace := s.trace ++ pinItems (some k) }
  | i2Ok (a s f) (hh : s.host = .initPower) (hp : a.power = some f) :
      HostEffect (.initialise a) s
        { s with host := .initDividers f, trace := s.trace ++ [.collab .powerUpPeripheral (.frequency f)] }
  | i2Fail (a s) (hh : s.host = .initPower) (hp : a.power = none) :
      HostEffect (.initialise a) s
        { s with host := .idle, returned := some .failure, trace := s.trace ++ [.collab .powerUpPeripheral .failure] }
  | i3 (a s f) (hh : s.host = .initDividers f) :
      HostEffect (.initialise a) s
        { s with divLo := (dividers f).1, divHi := (dividers f).2, host := .initClear,
                 trace := s.trace ++ [.divWrite (dividers f).1 (dividers f).2] }
  | i4 (a s) (hh : s.host = .initClear) :
      HostEffect (.initialise a) s
        { s with con := s.con &&& ~~~0x3C#8, host := .initEnable, trace := s.trace ++ [.conClr 0x3C#8] }
  | i5 (a s) (hh : s.host = .initEnable) :
      HostEffect (.initialise a) s
        { s with con := s.con ||| 0x40#8, host := .initRegister, trace := s.trace ++ [.conSet 0x40#8] }
  | i6Ok (a s) (hh : s.host = .initRegister) (hp : a.registerOk = true) :
      HostEffect (.initialise a) s
        { s with handlerRegistered := true, host := .idle, returned := some .ok,
                 trace := s.trace ++ [.collab .register .ok] }
  | i6Fail (a s) (hh : s.host = .initRegister) (hp : a.registerOk = false) :
      HostEffect (.initialise a) s
        { s with host := .idle, returned := some .failure, trace := s.trace ++ [.collab .register .failure] }
  | query (s) (hh : s.host = .idle) :
      HostEffect .isInitialized s { s with host := .idle, returned := some (.flag (s.con.getLsbD 6)) }
  | s1Ok (u s) (hh : s.host = .idle) (ha : u.address ≤ 0x7F#10) (he : s.con.getLsbD 6 = true) :
      HostEffect (.submitTransaction u) s { s with host := .submitInstall u }
  | s1Fault (u s) (hh : s.host = .idle) (ha : u.address ≤ 0x7F#10) (he : s.con.getLsbD 6 = false) :
      HostEffect (.submitTransaction u) s
        { s with fatal := some .notInitialized, trace := s.trace ++ [.fault .notInitialized] }
  | s2 (u s) (hh : s.host = .submitInstall u) :
      HostEffect (.submitTransaction u) s { s with record := installRecord u, host := .submitStart u }
  | s3 (u s) (hh : s.host = .submitStart u) :
      HostEffect (.submitTransaction u) s
        { s with con := s.con ||| 0x20#8, host := .waiting, trace := s.trace ++ [.conSet 0x20#8] }
  | waitOver (d s) (hh : s.host = .waiting) (hb : s.record.busy = false) :
      HostEffect (.wait d) s { s with host := .returnClear }
  | waitAbort (s) (hh : s.host = .waiting) (hb : s.record.busy = true) :
      HostEffect (.wait true) s { s with host := .abortStop }
  | waitOn (s) (hh : s.host = .waiting) (hb : s.record.busy = true) :
      HostEffect (.wait false) s s
  | a1 (s) (hh : s.host = .abortStop) :
      HostEffect .timeoutAbort s
        { s with con := s.con ||| 0x10#8, host := .abortNack, trace := s.trace ++ [.conSet 0x10#8] }
  | a2 (s) (hh : s.host = .abortNack) :
      HostEffect .timeoutAbort s
        { s with con := s.con &&& ~~~0x04#8, host := .abortStatus, trace := s.trace ++ [.conClr 0x04#8] }
  | a3 (s) (hh : s.host = .abortStatus) :
      HostEffect .timeoutAbort s { s with record := { s.record with status := .timedOut }, host := .abortWarn }
  | a4Warn (s) (hh : s.host = .abortWarn) (hl : s.record.outLength ≠ 0 ∧ s.record.inLength ≠ 0) :
      HostEffect .timeoutAbort s
        { s with host := .returnClear, trace := s.trace ++ [.warningMultiPhaseTimeout] }
  | a4Quiet (s) (hh : s.host = .abortWarn) (hl : ¬ (s.record.outLength ≠ 0 ∧ s.record.inLength ≠ 0)) :
      HostEffect .timeoutAbort s { s with host := .returnClear }
  | f1 (s) (hh : s.host = .returnClear) :
      HostEffect .returnStatus s
        { s with con := s.con &&& ~~~0x20#8, host := .returnRead, trace := s.trace ++ [.conClr 0x20#8] }
  | f2 (s) (hh : s.host = .returnRead) :
      HostEffect .returnStatus s
        { s with host := .idle, returned := some (.status s.record.status),
                 trace := s.trace ++ [.returned s.record.status] }

/-- A host command that completes has done one of its micro-steps, and no fault was latched before it. -/
theorem exec_host_cases {i : Instr} {s t : State} (hi : i.isEvent = false) (h : exec i s = .next t) :
    s.fatal = none ∧ HostEffect i s t := by
  cases i <;> simp only [Instr.isEvent, encodeByte, Option.isSome_some, Bool.true_eq_false] at hi
  case initialise a =>
    simp only [exec, execInitialise, hostStep_next_iff] at h
    obtain ⟨hf, hb⟩ := h
    refine ⟨hf, ?_⟩
    split at hb
    · next hh =>
      split at hb
      · next hadm =>
        injection hb with hb; subst hb
        rcases hp : a.pinFailure with _ | k
        · simp only [initPins, hp]; exact HostEffect.i1Ok a s hh hadm hp
        · simp only [initPins, hp]; exact HostEffect.i1Fail a s k hh hadm hp
      · cases hb
    · next hh =>
      injection hb with hb; subst hb
      rcases hp : a.power with _ | f
      · simp only [initPower, hp]; exact HostEffect.i2Fail a s hh hp
      · simp only [initPower, hp]; exact HostEffect.i2Ok a s f hh hp
    · next f hh => injection hb with hb; subst hb; exact HostEffect.i3 a s f hh
    · next hh => injection hb with hb; subst hb; exact HostEffect.i4 a s hh
    · next hh => injection hb with hb; subst hb; exact HostEffect.i5 a s hh
    · next hh =>
      injection hb with hb; subst hb
      rcases hp : a.registerOk with _ | _
      · simp only [initRegister, hp, if_false, Bool.false_eq_true]; exact HostEffect.i6Fail a s hh hp
      · simp only [initRegister, hp, if_true]; exact HostEffect.i6Ok a s hh hp
    · cases hb
  case isInitialized =>
    simp only [exec, execIsInitialized, hostStep_next_iff] at h
    obtain ⟨hf, hb⟩ := h
    refine ⟨hf, ?_⟩
    split at hb
    · next hh => injection hb with hb; subst hb; exact HostEffect.query s hh
    · cases hb
  case submitTransaction u =>
    simp only [exec, execSubmitTransaction, hostStep_next_iff] at h
    obtain ⟨hf, hb⟩ := h
    refine ⟨hf, ?_⟩
    split at hb
    · next hh =>
      split at hb
      · next ha =>
        injection hb with hb; subst hb
        rcases he : s.i2en with _ | _
        · simp only [submitGuard, he, if_false, Bool.false_eq_true]; exact HostEffect.s1Fault u s hh ha he
        · simp only [submitGuard, he, if_true]; exact HostEffect.s1Ok u s hh ha he
      · cases hb
    · next v hh =>
      split at hb
      · next huv => subst huv; injection hb with hb; subst hb; exact HostEffect.s2 u s hh
      · cases hb
    · next v hh =>
      split at hb
      · next huv => subst huv; injection hb with hb; subst hb; exact HostEffect.s3 u s hh
      · cases hb
    · cases hb
  case wait d =>
    simp only [exec, execWait, hostStep_next_iff] at h
    obtain ⟨hf, hb⟩ := h
    refine ⟨hf, ?_⟩
    split at hb
    · next hh =>
      injection hb with hb; subst hb
      rcases hbusy : s.record.busy with _ | _
      · simp only [waitOnce, hbusy, if_false, Bool.false_eq_true]; exact HostEffect.waitOver d s hh hbusy
      · cases d
        · simp only [waitOnce, hbusy, if_true, if_false, Bool.false_eq_true]; exact HostEffect.waitOn s hh hbusy
        · simp only [waitOnce, hbusy, if_true]; exact HostEffect.waitAbort s hh hbusy
    · cases hb
  case timeoutAbort =>
    simp only [exec, execTimeoutAbort, hostStep_next_iff] at h
    obtain ⟨hf, hb⟩ := h
    refine ⟨hf, ?_⟩
    split at hb
    · next hh => injection hb with hb; subst hb; exact HostEffect.a1 s hh
    · next hh => injection hb with hb; subst hb; exact HostEffect.a2 s hh
    · next hh => injection hb with hb; subst hb; exact HostEffect.a3 s hh
    · next hh =>
      injection hb with hb; subst hb
      by_cases hl : s.record.outLength ≠ 0 ∧ s.record.inLength ≠ 0
      · simp only [abortWarn, if_pos hl]; exact HostEffect.a4Warn s hh hl
      · simp only [abortWarn, if_neg hl]; exact HostEffect.a4Quiet s hh hl
    · cases hb
  case returnStatus =>
    simp only [exec, execReturnStatus, hostStep_next_iff] at h
    obtain ⟨hf, hb⟩ := h
    refine ⟨hf, ?_⟩
    split at hb
    · next hh => injection hb with hb; subst hb; exact HostEffect.f1 s hh
    · next hh => injection hb with hb; subst hb; exact HostEffect.f2 s hh
    · cases hb

end Sys2Proof.Machine
end

