-- ==== Sys2Proof/Laws/PerInstr.lean ====
section
/-! SUPPORT. Statements made instruction by instruction. -/

namespace Sys2Proof.Laws.EncodeWidth

/-- An event is encoded in one status byte; a host command has no encoding (R65, R75, R77). -/
def Statement (i : Instr) : Prop :=
  (i.isEvent = true → (encode i).length = 1) ∧ (i.isEvent = false → encode i = [])

theorem busError : Statement .busError := ⟨fun _ => rfl, fun h => nomatch h⟩
theorem start : Statement .start := ⟨fun _ => rfl, fun h => nomatch h⟩
theorem repStart : Statement .repStart := ⟨fun _ => rfl, fun h => nomatch h⟩
theorem slawAck : Statement .slawAck := ⟨fun _ => rfl, fun h => nomatch h⟩
theorem slawNack : Statement .slawNack := ⟨fun _ => rfl, fun h => nomatch h⟩
theorem txdataAck : Statement .txdataAck := ⟨fun _ => rfl, fun h => nomatch h⟩
theorem txdataNack : Statement .txdataNack := ⟨fun _ => rfl, fun h => nomatch h⟩
theorem arbLost : Statement .arbLost := ⟨fun _ => rfl, fun h => nomatch h⟩
theorem slarAck : Statement .slarAck := ⟨fun _ => rfl, fun h => nomatch h⟩
theorem slarNack : Statement .slarNack := ⟨fun _ => rfl, fun h => nomatch h⟩
theorem rxdataAck : Statement .rxdataAck := ⟨fun _ => rfl, fun h => nomatch h⟩
theorem rxdataNack : Statement .rxdataNack := ⟨fun _ => rfl, fun h => nomatch h⟩
theorem slaveAddr : Statement .slaveAddr := ⟨fun _ => rfl, fun h => nomatch h⟩
theorem noState : Statement .noState := ⟨fun _ => rfl, fun h => nomatch h⟩

theorem unknown (code : Byte) : Statement (.unknown code) := ⟨fun _ => rfl, fun h => nomatch h⟩

theorem initialise (answers : InitAnswers) : Statement (.initialise answers) := ⟨(nomatch ·), fun _ => rfl⟩
theorem isInitialized : Statement .isInitialized := ⟨(nomatch ·), fun _ => rfl⟩
theorem submitTransaction (t : Submission) : Statement (.submitTransaction t) := ⟨(nomatch ·), fun _ => rfl⟩
theorem wait (deadlineElapsed : Bool) : Statement (.wait deadlineElapsed) := ⟨(nomatch ·), fun _ => rfl⟩
theorem timeoutAbort : Statement .timeoutAbort := ⟨(nomatch ·), fun _ => rfl⟩
theorem returnStatus : Statement .returnStatus := ⟨(nomatch ·), fun _ => rfl⟩

end Sys2Proof.Laws.EncodeWidth
end

