-- ==== Sys2Proof/Laws/Run.lean ====
section
/-! SUPPORT. Runs of several steps: how they compose, and the two steps that deliver one event. -/

namespace Sys2Proof.Machine

/-- The first step of a run. -/
theorem run_succ (n : Nat) (s : State) :
    Sys2Proof.core.run (n + 1) s =
      (match step s with
        | .next s' => Sys2Proof.core.run n s'
        | .fault r => .fault r
        | .refused r => .refused r : Host.Outcome State Fault Refusal) := by
  rcases h : step s with t | f | r <;> simp [Host.Core.run, Sys2Proof.core, h]

/-- A run that completes goes on with the run after it. -/
theorem run_add (a b : Nat) (s t : State) (h : Sys2Proof.core.run a s = .next t) :
    Sys2Proof.core.run (a + b) s = Sys2Proof.core.run b t := by
  induction a generalizing s with
  | zero => injection h with h; subst h; rw [Nat.zero_add]
  | succ a ih =>
    rw [Nat.add_right_comm, run_succ]
    rw [run_succ] at h
    revert h
    split <;> intro h
    · exact ih _ h
    · cases h
    · cases h

/-- The state in which an event has just been raised, with these turns still to come. -/
def State.raised (s : State) (code rx : Byte) (rest : List Turn) : State :=
  { s with stat := code, datRx := rx, con := s.con ||| 0x08#8, ctrl := .reported code, agenda := rest }

/-- The controller's turn and the interrupt context's turn after it. -/
theorem run_deliver {s t : State} (code rx : Byte) (rest : List Turn) {i : Instr} (hi : decodeByte code = i)
    (hf : s.fatal = none) (hs : s.con.getLsbD 3 = false) (ha : s.agenda = .ctrl (.raise code rx) :: .isr :: rest)
    (h : exec i (s.raised code rx rest) = .next t) : Sys2Proof.core.run 2 s = .next t := by
  have e1 : step s = .next (s.raised code rx (.isr :: rest)) := by
    simp only [step, hf, ha, takeTurn, ctrlStep, State.si, hs, State.raised, setBits, SI]; rfl
  have e2 : step (s.raised code rx (.isr :: rest)) = .next t := by
    simp only [step, State.raised, hf, takeTurn, State.pendingInstr, hi]
    simp only [State.raised, hf] at h
    exact h
  rw [run_succ 1, e1]
  simp only
  rw [run_succ 0, e2]
  rfl

theorem con_untouched (c : Byte) : c = (c ||| 0#8) &&& ~~~0#8 := by revert c; decide

theorem con_set_only (c m : Byte) : c ||| m = (c ||| m) &&& ~~~0#8 := by
  have h := con_untouched (c ||| m)
  rwa [BitVec.or_zero] at h

theorem con_clr_only (c m : Byte) : c &&& ~~~m = (c ||| 0#8) &&& ~~~m := by simp

/-- What a step that completes does to `CON` and the trace: it sets some bits and clears some, never a reserved one, never
clears bit 6 and sets it only at I5; and it appends items. -/
theorem step_con {s t : State} (h : step s = .next t) :
    ∃ set clr : Byte, t.con = (s.con ||| set) &&& ~~~clr ∧ set &&& 0x83#8 = 0#8 ∧ clr &&& 0xC3#8 = 0#8 ∧
      (set.getLsbD 6 = true → s.host = .initEnable) ∧ ∃ items, t.trace = s.trace ++ items := by
  obtain ⟨hf, ⟨ha, rfl⟩ | ⟨rest, ha, h⟩ | ⟨i, rest, ha, hi, h⟩ | ⟨a, rest, ha, h⟩⟩ := step_cases h
  · exact ⟨0, 0, con_untouched _, by simp, by simp, by simp, [], by simp⟩
  · obtain ⟨-, code, hc, ⟨u, set, clr, hrow, hm, hfr, rfl⟩ | ⟨u, f, hrow, hfr, rfl⟩⟩ :=
      exec_event_cases (decodeByte_isEvent _) h
    all_goals
      obtain ⟨items, ht, -⟩ := hfr.trace
      have hcon : u.con = s.con := hfr.con
    · obtain ⟨h1, h2, h3⟩ := hm.untouched
      exact ⟨set, clr, by simp [hcon], h1, h2, fun h6 => absurd (h3.symm.trans h6) (by decide),
        .statRead code :: items ++ [.conSet set, .conClr clr], by simp [ht]⟩
    · exact ⟨0, 0, by simpa [hcon] using con_untouched s.con, by simp, by simp, by simp, .statRead code :: items ++ [.fault f], by simp [ht]⟩
  · obtain ⟨-, hc⟩ := exec_host_cases hi h
    cases hc with
    | i4 => exact ⟨0, 0x3C#8, con_clr_only _ _, by simp, by simp, by simp, _, rfl⟩
    | i5 a s hh => exact ⟨0x40, 0, con_set_only _ _, by simp, by simp, fun _ => hh, _, rfl⟩
    | s3 => exact ⟨0x20, 0, con_set_only _ _, by simp, by simp, by simp, _, rfl⟩
    | a1 => exact ⟨0x10, 0, con_set_only _ _, by simp, by simp, by simp, _, rfl⟩
    | a2 => exact ⟨0, 4, con_clr_only _ _, by simp, by simp, by simp, _, rfl⟩
    | f1 => exact ⟨0, 0x20, con_clr_only _ _, by simp, by simp, by simp, _, rfl⟩
    | _ =>
      first
        | exact ⟨0, 0, con_untouched _, by simp, by simp, by simp, _, rfl⟩
        | exact ⟨0, 0, con_untouched _, by simp, by simp, by simp, [], by simp⟩
  · rcases ctrlStep_cases h with ⟨c, rx, rfl, hsi, rfl⟩ | ⟨rfl, rfl⟩ | ⟨rfl, rfl⟩ | ⟨rfl, rfl⟩ | ⟨rfl, rfl⟩
    · exact ⟨8, 0, con_set_only _ _, by simp, by simp, by simp, [], by simp⟩
    · exact ⟨0, 0, con_untouched _, by simp, by simp, by simp, [], by simp⟩
    · exact ⟨0, 0x10, con_clr_only _ _, by simp, by simp, by simp, [], by simp⟩
    · exact ⟨0, 0x10, con_clr_only _ _, by simp, by simp, by simp, [], by simp⟩
    · exact ⟨0, 0, con_untouched _, by simp, by simp, by simp, [], by simp⟩

/-- What a step that completes does to the dividers: nothing, or step I3 writes those of the frequency I2 obtained (R34). -/
theorem step_dividers {s t : State} (h : step s = .next t) :
    (t.divLo = s.divLo ∧ t.divHi = s.divHi) ∨ ∃ f, s.host = .initDividers f ∧ (t.divLo, t.divHi) = dividers f := by
  obtain ⟨-, ⟨-, rfl⟩ | ⟨rest, ha, h⟩ | ⟨i, rest, ha, hi, h⟩ | ⟨a, rest, ha, h⟩⟩ := step_cases h
  · exact .inl ⟨rfl, rfl⟩
  · obtain ⟨-, code, hc, ⟨u, set, clr, hrow, hm, hfr, rfl⟩ | ⟨u, f, hrow, hfr, rfl⟩⟩ :=
      exec_event_cases (decodeByte_isEvent _) h
    all_goals exact .inl ⟨hfr.divLo, hfr.divHi⟩
  · obtain ⟨-, hc⟩ := exec_host_cases hi h
    cases hc with
    | i3 a s f hh => exact .inr ⟨f, hh, rfl⟩
    | _ => exact .inl ⟨rfl, rfl⟩
  · left
    rcases ctrlStep_cases h with ⟨c, rx, rfl, hsi, rfl⟩ | ⟨rfl, rfl⟩ | ⟨rfl, rfl⟩ | ⟨rfl, rfl⟩ | ⟨rfl, rfl⟩ <;>
      exact ⟨rfl, rfl⟩

/-- Where every frequency obtained has dividers that fit `DIV_W` bits, the divider registers hold nothing wider (U15). -/
theorem step_dividersFit {s t : State} (h : step s = .next t) (hf : ∀ f, s.host = .initDividers f → dividersFit f)
    (hlo : s.divLo < 2 ^ Config.divW) (hhi : s.divHi < 2 ^ Config.divW) :
    t.divLo < 2 ^ Config.divW ∧ t.divHi < 2 ^ Config.divW := by
  rcases step_dividers h with ⟨h1, h2⟩ | ⟨f, hh, hd⟩
  · exact ⟨h1 ▸ hlo, h2 ▸ hhi⟩
  · obtain ⟨h1, h2⟩ := Prod.ext_iff.mp hd
    exact ⟨lt_of_eq_of_lt h1 (hf f hh).1, lt_of_eq_of_lt h2 (hf f hh).2⟩

end Sys2Proof.Machine
end

