-- ==== Sys2Proof/Tests/Slice0.lean ====
section
/-! SUPPORT. The model's own tests. Expected results are those of the spec's encodings and of `95_test_vectors.md` (the
vector is named on each); the witnesses show states that meet the premises of the statements. -/

namespace Sys2Proof.Tests

open Sys2Proof Sys2Proof.Machine

/-! ### What WellFormed refuses -/

/-- R122: a named code is not an unknown one. -/
theorem test_wf_refuses_a_named_code : (Instr.unknown 0x18#8).wellFormed = false := by decide
/-- Vector V46. -/
theorem test_wf_refuses_a_long_address :
    (Instr.submitTransaction ⟨0x80#10, .write, [], [], false, 0⟩).wellFormed = false := by decide
/-- R72: the frequency is positive. -/
theorem test_wf_refuses_frequency_zero : (Instr.initialise ⟨none, some 0, true⟩).wellFormed = false := by decide
theorem test_wf_admits : (Instr.unknown 0x19#8).wellFormed = true ∧
    (Instr.submitTransaction ⟨0x7F#10, .write, [], [], false, 0⟩).wellFormed = true ∧
    (Instr.initialise ⟨none, some 1, true⟩).wellFormed = true := by decide

/-! ### Decoding (R66, written out bit by bit; vectors E18 to E22) -/

theorem test_decode_bus : decodeTableWord 8 0b00000000 = some .busError ∧ decodeTableWord 8 0b00001000 = some .start ∧
    decodeTableWord 8 0b00010000 = some .repStart ∧ decodeTableWord 8 0b00111000 = some .arbLost := by decide
theorem test_decode_transmit : decodeTableWord 8 0b00011000 = some .slawAck ∧
    decodeTableWord 8 0b00100000 = some .slawNack ∧ decodeTableWord 8 0b00101000 = some .txdataAck ∧
    decodeTableWord 8 0b00110000 = some .txdataNack := by decide
theorem test_decode_receive : decodeTableWord 8 0b01000000 = some .slarAck ∧
    decodeTableWord 8 0b01001000 = some .slarNack ∧ decodeTableWord 8 0b01010000 = some .rxdataAck ∧
    decodeTableWord 8 0b01011000 = some .rxdataNack := by decide
theorem test_decode_other : decodeTableWord 8 0b10100000 = some .slaveAddr ∧
    decodeTableWord 8 0b11111000 = some .noState ∧ decodeTableWord 8 0b00011001 = some (.unknown 0x19#8) := by decide
theorem test_decode_unknown : decodeTableWord 8 0x60 = some (.unknown 0x60#8) ∧
    decodeTableWord 8 0x68 = some (.unknown 0x68#8) ∧ decodeTableWord 8 0xB0 = some (.unknown 0xB0#8) ∧
    decodeTableWord 8 0xFF = some (.unknown 0xFF#8) ∧ decodeTableWord 8 0x01 = some (.unknown 0x01#8) := by decide
theorem test_decode_nothing : decodeTableWord 0 0 = none := by decide
/-- Vector E23. -/
theorem test_fourteen_named_codes : namedCodes.length = 14 ∧ namedCodes.Nodup := by decide
/-- No two rows of the opcode map overlap. -/
theorem test_rows_do_not_overlap :
    opcodeRows.Pairwise fun a b => (a.pattern ^^^ b.pattern) &&& a.mask &&& b.mask ≠ 0#8 := by decide

/-! ### Assembled values -/

def target (a : DeviceAddress) (d : Direction) : TransactionRecord :=
  { TransactionRecord.reset with address := a, operation := d }

/-- Vectors E3 to E10. -/
theorem test_address_bytes : addrByte (target 0x00#10 .write) = 0x00#8 ∧ addrByte (target 0x00#10 .read) = 0x01#8 ∧
    addrByte (target 0x7F#10 .write) = 0xFE#8 ∧ addrByte (target 0x7F#10 .read) = 0xFF#8 ∧
    addrByte (target 0x1D#10 .read) = 0x3B#8 ∧ addrByte (target 0x3C#10 .write) = 0x78#8 := by decide
/-- Vectors E11 to E17. -/
theorem test_dividers : dividers 96000000 = (448, 832) ∧ dividers 12000000 = (56, 104) ∧
    dividers 10000000 = (46, 86) ∧ dividers 100000000 = (466, 866) ∧ dividers 150000 = (0, 1) ∧
    dividers 75000 = (0, 0) := by decide

/-! ### States for the tests -/

/-- A record in the middle of a transaction. -/
def live : TransactionRecord := { TransactionRecord.reset with busy := true, address := 0x50#10 }

/-- After `INIT` (`95_test_vectors.md`, conventions). -/
def initialised : State := { State.reset with con := 0x40#8, handlerRegistered := true }

/-- An event is pending, with this control register and record. -/
def pending (con : Byte) (r : TransactionRecord) : State := { initialised with con := con, record := r }

/-- The foreground stands at this micro-step. -/
def hostAt (h : HostPoint) : State := { initialised with host := h, record := live }

/-- A buffer bound for output. -/
def sending (bytes : List Byte) (p : Nat) : TransactionRecord :=
  { live with dataOut := some (Memory.ofBytes bytes), outLength := bytes.length, position := p }

/-- A buffer of `n` bytes 0x00 bound for input. -/
def receiving (n p : Nat) : TransactionRecord :=
  { live with operation := .read, dataIn := some [], inLength := n, position := p }

/-- The state a step leaves. -/
def after (o : Host.Outcome State Fault Refusal) : Option State :=
  match o with
  | .next s => some s
  | .fault _ | .refused _ => none

/-- What a step appends to an empty trace. -/
def traceOf (o : Host.Outcome State Fault Refusal) : Option (List TraceItem) := (after o).map (·.trace)

/-! ### Bus-condition events -/

/-- Vector V10b. -/
theorem test_busError : (after (exec .busError (pending 0x68#8 live))).map
    (fun t => (t.record.status, t.record.busy, t.con)) = some (.busError, true, 0x74#8) := by decide
/-- Vector V11. -/
theorem test_start : (after (exec .start (pending 0x68#8 live))).map (fun t => (t.datTx, t.con, t.record.position)) =
    some (0xA0#8, 0x60#8, 0) := by decide
/-- Vector V12. -/
theorem test_start_read : traceOf (exec .start (pending 0x68#8 { live with operation := .read })) =
    some [.statRead 0x08#8, .datWrite 0xA1#8, .conSet 0x00#8, .conClr 0x08#8] := by decide
/-- Vector V13. -/
theorem test_repStart : (after (exec .repStart (pending 0x68#8 (target 0x1D#10 .write)))).map
    (fun t => (t.record.operation, t.datTx, t.con)) = some (.read, 0x3B#8, 0x60#8) := by decide
/-- Vector V13b. -/
theorem test_repStart_keeps_the_cursor :
    (after (exec .repStart (pending 0x68#8 { target 0x1D#10 .read with position := 5 }))).map
      (fun t => (t.record.position, t.datTx)) = some (5, 0x3B#8) := by decide
/-- Vector V14. -/
theorem test_arbLost : (after (exec .arbLost (pending 0x48#8 { live with position := 1 }))).map
    (fun t => (t.con, t.record)) = some (0x60#8, { live with position := 1 }) := by decide

/-! ### Transmit events -/

/-- Vector V15. -/
theorem test_slawAck_probe : (after (exec .slawAck (pending 0x68#8 { live with status := .busError }))).map
    (fun t => (t.record.busy, t.record.status, t.con)) = some (false, .success, 0x50#8) := by decide
/-- Vector V16. -/
theorem test_slawAck : traceOf (exec .slawAck (pending 0x68#8 (sending [0x11#8, 0x22#8] 0))) =
    some [.statRead 0x18#8, .memRead 0 0x11#8, .datWrite 0x11#8, .conSet 0x00#8, .conClr 0x28#8] := by decide
/-- Vector V18. -/
theorem test_slawNack : (after (exec .slawNack (pending 0x68#8 live))).map
    (fun t => (t.record.busy, t.record.status, t.con)) = some (false, .deviceNotFound, 0x50#8) := by decide
/-- Vector V21. -/
theorem test_txdataAck_switch :
    (after (exec .txdataAck (pending 0x48#8 { sending [0x77#8] 1 with repeated := true, inLength := 4 }))).map
      (fun t => (t.record.operation, t.record.position, t.record.busy, t.con)) =
    some (.read, 0, true, 0x60#8) := by decide
/-- Vector V21c: the cursor beyond the length. -/
theorem test_txdataAck_end : (after (exec .txdataAck (pending 0x48#8 (sending [0x77#8] 3)))).map
    (fun t => (t.record.busy, t.record.position, t.con)) = some (false, 3, 0x50#8) := by decide
/-- Vector V22. -/
theorem test_txdataNack : (after (exec .txdataNack (pending 0x48#8 (sending [0x01#8, 0x02#8, 0x03#8] 2)))).map
    (fun t => (t.record.busy, t.record.status, t.record.position, t.con)) =
    some (false, .success, 2, 0x50#8) := by decide

/-! ### Receive events -/

/-- Vector V23: `busy` stays. -/
theorem test_slarAck_zero : (after (exec .slarAck (pending 0x68#8 (receiving 0 0)))).map
    (fun t => (t.record.busy, t.con)) = some (true, 0x50#8) := by decide
/-- Vectors V24 and V25. -/
theorem test_slarAck : (after (exec .slarAck (pending 0x6C#8 (receiving 1 0)))).map (·.con) = some 0x40#8 ∧
    (after (exec .slarAck (pending 0x68#8 (receiving 2 0)))).map (·.con) = some 0x44#8 := by decide
/-- R111's example. -/
theorem test_slarNack : (after (exec .slarNack (pending 0x68#8 live))).map
    (fun t => (t.record.busy, t.record.status, t.con)) = some (false, .deviceNotFound, 0x50#8) := by decide
/-- Vector V28: the last byte but one. -/
theorem test_rxdataAck_look_ahead :
    (after (exec .rxdataAck { pending 0x4C#8 (receiving 3 1) with datRx := 0x02#8 })).map
      (fun t => (t.record.position, t.record.busy, t.con, t.record.dataIn)) =
    some (2, false, 0x40#8, some [(1, 0x02#8)]) := rfl
/-- Vector V29: nothing is stored and `DAT` is not read. -/
theorem test_rxdataAck_zero : traceOf (exec .rxdataAck { pending 0x4C#8 (receiving 0 0) with datRx := 0x99#8 }) =
    some [.statRead 0x50#8, .conSet 0x00#8, .conClr 0x0C#8] := by decide
/-- Vector V34b. -/
theorem test_rxdataNack :
    (after (exec .rxdataNack { pending 0x48#8 { receiving 4 3 with busy := false } with datRx := 0xEF#8 })).map
      (fun t => (t.record.position, t.con, t.record.dataIn)) = some (4, 0x50#8, some [(3, 0xEF#8)]) := by decide
/-- Vector V34. -/
theorem test_rxdataNack_beyond : (after (exec .rxdataNack { pending 0x48#8 (receiving 1 1) with datRx := 0x77#8 })).map
    (fun t => (t.record.busy, t.fatal, t.con, t.trace)) =
    some (false, some (.bufferBounds .in 1 1), 0x48#8,
      [.statRead 0x58#8, .fault (.bufferBounds .in 1 1)]) := by decide

/-! ### Other events -/

/-- R120's example. -/
theorem test_slaveAddr : (after (exec .slaveAddr (pending 0x48#8 live))).map (fun t => (t.con, t.record)) =
    some (0x40#8, live) := by decide
/-- Vector V36. -/
theorem test_noState : (after (exec .noState (pending 0x48#8 live))).map (fun t => (t.con, t.record)) =
    some (0x40#8, live) := by decide
/-- R122's example. -/
theorem test_unknown : (after (exec (.unknown 0x60#8) (pending 0x48#8 live))).map
    (fun t => (t.fatal, t.con, t.record.busy)) = some (some (.internalFatal 0x60#8), 0x48#8, true) := by decide

/-! ### Host commands -/

/-- Vector V38 (R130's example): I3 programs the dividers. -/
theorem test_initialise_dividers :
    (after (exec (.initialise ⟨none, some 48000000, true⟩) { State.reset with host := .initDividers 48000000 })).map
      (fun t => (t.divLo, t.divHi, t.host)) = some (224, 416, .initClear) := by decide
/-- I4 with every stale bit set. -/
theorem test_initialise_clear : (after (exec (.initialise ⟨none, some 48000000, true⟩)
    { State.reset with host := .initClear, con := 0x3C#8 })).map (·.con) = some 0x00#8 := by decide
/-- R131's example. -/
theorem test_isInitialized :
    (after (exec .isInitialized initialised)).map (·.returned) = some (some (.flag true)) ∧
    (after (exec .isInitialized { State.reset with con := 0x3C#8 })).map (·.returned) =
      some (some (.flag false)) := by decide

def probe : Submission := ⟨0x50#10, .write, [0x10#8], [0xEE#8, 0xEE#8, 0xEE#8, 0xEE#8], true, 0⟩

/-- R132's example: the install. -/
theorem test_submit_install :
    (after (exec (.submitTransaction probe) { initialised with host := .submitInstall probe })).map
      (fun t => (t.record.outLength, t.record.inLength, t.record.position, t.record.busy, t.record.status)) =
    some (1, 4, 0, true, .success) := by decide
/-- And the start. -/
theorem test_submit_start : (after (exec (.submitTransaction probe) (hostAt (.submitStart probe)))).map (·.con) =
    some 0x60#8 := by decide
/-- R134's example. -/
theorem test_wait : (after (exec (.wait false) (hostAt .waiting))).map (·.host) = some .waiting ∧
    (after (exec (.wait true) { hostAt .waiting with record := TransactionRecord.reset })).map (·.host) =
      some .returnClear := by decide
/-- Vector V44, micro-steps A1 and A2. -/
theorem test_timeoutAbort :
    (after (exec .timeoutAbort { hostAt .abortStop with con := 0x44#8 })).map (·.con) = some 0x54#8 ∧
    (after (exec .timeoutAbort { hostAt .abortNack with con := 0x54#8 })).map (·.con) = some 0x50#8 := by decide
/-- Vector V45: no warning where one length is zero. -/
theorem test_timeoutAbort_quiet :
    traceOf (exec .timeoutAbort { hostAt .abortWarn with record := { live with outLength := 2 } }) = some [] := by decide
/-- Vector V47, the end: last writer wins. -/
theorem test_returnStatus :
    (after (exec .returnStatus { hostAt .returnRead with record := { live with status := .deviceNotFound } })).map
      (·.returned) = some (some (.status .deviceNotFound)) := by decide

/-! ### Steps -/

/-- R80: the controller raises, and the interrupt context serves what it finds in `STAT`. -/
theorem test_step_serves_stat :
    (after (step { pending 0x68#8 live with stat := 0x20#8, agenda := [.isr] })).map
      (fun t => (t.record.status, t.agenda)) = some (.deviceNotFound, []) := by decide
theorem test_fetch_word : (after (step (State.reset.withFetchWord 8 0xA0))).map (fun t => (t.con, t.trace)) =
    some (0x00#8, [.statRead 0xA0#8, .conSet 0x00#8, .conClr 0x08#8]) := by decide
/-- R28. -/
theorem test_ctrl_clears_stop :
    (after (step { initialised with con := 0x50#8, agenda := [.ctrl .finishStop] })).map (·.con) =
      some 0x40#8 := by decide
/-- U4. -/
theorem test_ctrl_waits_for_si : step { pending 0x48#8 live with agenda := [.ctrl (.raise 0x08#8 0x00#8)] } =
    .refused .eventWhilePending := rfl

/-! ### Witnesses: encoding and assembled values -/

theorem witness_unnamed_code : (0x19#8 : Byte) ∉ namedCodes ∧ (0xFF#8 : Byte) ∉ namedCodes := by decide
theorem witness_encodable : Instr.slawAck.wellFormed = true ∧ Instr.slawAck.isEvent = true ∧
    (Instr.unknown 0x19#8).wellFormed = true ∧ (Instr.unknown 0x19#8).isEvent = true := by decide
theorem witness_address_byte : 0 < 7 ∧ 6 < 7 ∧ (target 0x50#10 .write).address = 0x50#10 ∧
    (target 0x50#10 .write).operation = .write ∧ (target 0x50#10 .read).address = 0x50#10 ∧
    (target 0x50#10 .read).operation = .read := by decide

/-! ### Witnesses: event steps -/

theorem witness_eventReady (r : TransactionRecord) : EventReady (pending 0x48#8 r) := by
  simp [EventReady, pending, initialised, State.reset]
theorem witness_slawAck_probe : EventReady (pending 0x48#8 live) ∧ (pending 0x48#8 live).record.outLength = 0 :=
  ⟨⟨rfl, rfl, rfl⟩, rfl⟩
/-- The last byte. -/
theorem witness_slawAck_send : EventReady (pending 0x48#8 (sending [0x11#8, 0x22#8] 1)) ∧
    (sending [0x11#8, 0x22#8] 1).outLength ≠ 0 ∧
    (sending [0x11#8, 0x22#8] 1).dataOut = some (Memory.ofBytes [0x11#8, 0x22#8]) ∧
    (sending [0x11#8, 0x22#8] 1).position < (sending [0x11#8, 0x22#8] 1).outLength :=
  ⟨⟨rfl, rfl, rfl⟩, by decide, rfl, by decide⟩
/-- Vector V17, one past the last byte. -/
theorem witness_slawAck_beyond : EventReady (pending 0x68#8 (sending [0x77#8] 1)) ∧ (sending [0x77#8] 1).outLength ≠ 0 ∧
    (sending [0x77#8] 1).outLength ≤ (sending [0x77#8] 1).position := ⟨⟨rfl, rfl, rfl⟩, by decide, by decide⟩
theorem witness_txdataAck_repeated : EventReady (pending 0x48#8 { sending [0x77#8] 1 with repeated := true }) ∧
    (sending [0x77#8] 1).outLength ≤ (sending [0x77#8] 1).position ∧
    ({ sending [0x77#8] 1 with repeated := true } : TransactionRecord).repeated = true :=
  ⟨⟨rfl, rfl, rfl⟩, by decide, rfl⟩
theorem witness_txdataAck_end : EventReady (pending 0x48#8 (sending [0x77#8] 1)) ∧
    (sending [0x77#8] 1).outLength ≤ (sending [0x77#8] 1).position ∧ (sending [0x77#8] 1).repeated = false :=
  ⟨⟨rfl, rfl, rfl⟩, by decide, rfl⟩
theorem witness_txdataAck_send : EventReady (pending 0x48#8 (sending [0x77#8] 0)) ∧
    (sending [0x77#8] 0).position < (sending [0x77#8] 0).outLength ∧
    (sending [0x77#8] 0).dataOut = some (Memory.ofBytes [0x77#8]) := ⟨⟨rfl, rfl, rfl⟩, by decide, rfl⟩
theorem witness_slarAck : EventReady (pending 0x48#8 (receiving 0 0)) ∧ (receiving 0 0).inLength = 0 ∧
    EventReady (pending 0x48#8 (receiving 1 0)) ∧ (receiving 1 0).inLength = 1 ∧
    EventReady (pending 0x48#8 (receiving 2 0)) ∧ 2 ≤ (receiving 2 0).inLength :=
  ⟨⟨rfl, rfl, rfl⟩, rfl, ⟨rfl, rfl, rfl⟩, rfl, ⟨rfl, rfl, rfl⟩, by decide⟩
theorem witness_rxdataAck_last : EventReady (pending 0x4C#8 (receiving 2 0)) ∧
    (receiving 2 0).position < (receiving 2 0).inLength ∧ (receiving 2 0).dataIn = some [] ∧
    (receiving 2 0).inLength ≤ (receiving 2 0).position + 2 := ⟨⟨rfl, rfl, rfl⟩, by decide, rfl, by decide⟩
theorem witness_rxdataAck_more : EventReady (pending 0x4C#8 (receiving 3 0)) ∧
    (receiving 3 0).position < (receiving 3 0).inLength ∧ (receiving 3 0).dataIn = some [] ∧
    (receiving 3 0).position + 2 < (receiving 3 0).inLength := ⟨⟨rfl, rfl, rfl⟩, by decide, rfl, by decide⟩
theorem witness_rxdataAck_full : EventReady (pending 0x4C#8 (receiving 2 2)) ∧
    (receiving 2 2).inLength ≤ (receiving 2 2).position := ⟨⟨rfl, rfl, rfl⟩, by decide⟩
theorem witness_rxdataNack_zero : EventReady (pending 0x48#8 (receiving 0 0)) ∧ (receiving 0 0).inLength = 0 :=
  ⟨⟨rfl, rfl, rfl⟩, rfl⟩
theorem witness_rxdataNack_store : EventReady (pending 0x48#8 (receiving 1 0)) ∧
    (receiving 1 0).position < (receiving 1 0).inLength ∧ (receiving 1 0).dataIn = some [] :=
  ⟨⟨rfl, rfl, rfl⟩, by decide, rfl⟩
theorem witness_rxdataNack_beyond : EventReady (pending 0x48#8 (receiving 1 1)) ∧ (receiving 1 1).inLength ≠ 0 ∧
    (receiving 1 1).inLength ≤ (receiving 1 1).position := ⟨⟨rfl, rfl, rfl⟩, by decide, by decide⟩

/-- A record with lengths and no buffer bound. -/
def unbound : TransactionRecord := { live with outLength := 1, inLength := 1 }

theorem witness_refused_access : EventReady (pending 0x48#8 unbound) ∧ unbound.outLength ≠ 0 ∧ unbound.dataOut = none ∧
    unbound.position < unbound.outLength ∧ unbound.inLength ≠ 0 ∧ unbound.dataIn = none ∧
    unbound.position < unbound.inLength := ⟨⟨rfl, rfl, rfl⟩, by decide, rfl, by decide, by decide, rfl, by decide⟩

/-- A faulted instance. -/
def faulted : State := { pending 0x48#8 live with fatal := some (.internalFatal 0x60#8) }

theorem witness_latched : faulted.fatal = some (.internalFatal 0x60#8) := rfl
theorem witness_disabled_event : Instr.start.isEvent = true ∧ initialised.fatal = none ∧
    initialised.con.getLsbD 3 = false ∧ State.reset.fatal = none ∧ State.reset.handlerRegistered = false :=
  ⟨rfl, rfl, rfl, rfl, rfl⟩
/-- For the statements over every event that completes. -/
theorem witness_event_completes : Instr.arbLost.isEvent = true ∧
    ∃ t, exec .arbLost (pending 0x48#8 live) = .next t ∧ t.fatal = none := ⟨rfl, _, rfl, rfl⟩
/-- And for those over every event that faults. -/
theorem witness_event_faults : (Instr.unknown 0x60#8).isEvent = true ∧
    ∃ t, exec (.unknown 0x60#8) (pending 0x48#8 live) = .next t ∧ t.fatal ≠ none :=
  ⟨rfl, _, rfl, by decide⟩

theorem kept_pending {r : TransactionRecord} (ho : bufferKept r.outLength r.dataOut = true)
    (hi : bufferKept r.inLength r.dataIn = true) (hc : r.position ≤ max r.outLength r.inLength)
    (ha : r.address ≤ 0x7F#10) (hs : r.status ≠ .inProgress) : (pending 0x4C#8 r).Kept :=
  ⟨ho, hi, hc, ha, rfl, hs, fun _ => by simp [pending], fun _ => by simp [pending]⟩

theorem witness_store_kept : (pending 0x4C#8 (receiving 2 1)).Kept ∧ (pending 0x4C#8 (receiving 2 2)).Kept :=
  ⟨kept_pending rfl rfl (by decide) (by decide) (by decide), kept_pending rfl rfl (by decide) (by decide) (by decide)⟩
/-- A store below the length. -/
theorem witness_rx_stores : (pending 0x4C#8 (receiving 2 1)).record.dataIn = some [] ∧
    (receiving 2 1).position < (receiving 2 1).inLength ∧
    (∃ t, exec .rxdataAck (pending 0x4C#8 (receiving 2 1)) = .next t) ∧
    ∃ t, exec .rxdataNack (pending 0x4C#8 (receiving 2 1)) = .next t := ⟨rfl, by decide, ⟨_, rfl⟩, ⟨_, rfl⟩⟩
/-- And none at it. -/
theorem witness_rx_full : (pending 0x4C#8 (receiving 2 2)).record.dataIn = some [] ∧
    (receiving 2 2).inLength ≤ (receiving 2 2).position ∧
    (∃ t, exec .rxdataAck (pending 0x4C#8 (receiving 2 2)) = .next t) ∧
    ∃ t, exec .rxdataNack (pending 0x4C#8 (receiving 2 2)) = .next t := ⟨rfl, by decide, ⟨_, rfl⟩, ⟨_, rfl⟩⟩
theorem witness_no_submission : (∃ t, exec .arbLost (pending 0x48#8 live) = .next t) ∧
    (∀ u, Instr.arbLost ≠ .submitTransaction u) ∧ Instr.arbLost ≠ .rxdataAck ∧ Instr.arbLost ≠ .rxdataNack :=
  ⟨⟨_, rfl⟩, by simp, by decide, by decide⟩

/-- A state that differs from `pending 0x48#8 live` outside the inputs of an event. -/
def elsewhere : State := { pending 0x48#8 live with datTx := 0x55#8, stat := 0x11#8, host := .waiting, divLo := 7 }

theorem witness_same_inputs : Instr.start.isEvent = true ∧ (pending 0x48#8 live).record = elsewhere.record ∧
    (pending 0x48#8 live).datRx = elsewhere.datRx ∧ (pending 0x48#8 live).con = elsewhere.con ∧
    (∃ t, exec .start (pending 0x48#8 live) = .next t) ∧ ∃ t, exec .start elsewhere = .next t :=
  ⟨rfl, rfl, rfl, rfl, ⟨_, rfl⟩, ⟨_, rfl⟩⟩
theorem witness_start_cleared : Instr.slawNack.isEvent = true ∧
    ∃ t, exec .slawNack (pending 0x68#8 live) = .next t ∧ (pending 0x68#8 live).con.getLsbD 5 = true ∧
      t.con.getLsbD 5 = false := ⟨rfl, _, rfl, rfl, rfl⟩

/-! ### Witnesses: host commands -/

theorem witness_hostAt (h : HostPoint) : HostAt h (hostAt h) := ⟨rfl, rfl⟩
/-- `Initialize` from reset, not enabled, and from a quiescent enabled one. -/
theorem witness_initialise : HostAt .idle State.reset ∧ State.reset.con.getLsbD 6 = false ∧
    State.reset.ctrl = .idle ∧ HostAt .idle initialised ∧ initialised.quiescent = true ∧
    (⟨none, some 48000000, true⟩ : InitAnswers).pinFailure = none ∧
    (⟨none, some 48000000, true⟩ : InitAnswers).power = some 48000000 ∧
    (⟨none, some 48000000, true⟩ : InitAnswers).registerOk = true :=
  ⟨⟨rfl, rfl⟩, rfl, rfl, ⟨rfl, rfl⟩, rfl, rfl, rfl, rfl⟩
theorem witness_initialise_fails : (⟨some 5, none, false⟩ : InitAnswers).pinFailure = some 5 ∧
    (⟨some 0, none, false⟩ : InitAnswers).pinFailure = some 0 ∧ pinCalls[5]? = some (.setPullResistorNone .clock) ∧
    pinCalls[0]? = some (.setFunction .data) ∧ (⟨none, none, false⟩ : InitAnswers).power = none ∧
    (⟨none, none, false⟩ : InitAnswers).registerOk = false := ⟨rfl, rfl, rfl, rfl, rfl, rfl⟩
/-- Vector V38: the first `Initialize` is accepted with stale control bits. -/
theorem test_initialise_admitted : ({ State.reset with con := 0x3C#8 } : State).initialiseAdmitted = true ∧
    initialised.initialiseAdmitted = true := by decide
/-- U11: an enabled instance accepts it neither with an event pending, nor with `STO` not yet acted on (R183). -/
theorem test_initialise_not_admitted : (pending 0x48#8 live).initialiseAdmitted = false ∧
    (pending 0x50#8 live).initialiseAdmitted = false ∧
    ({ pending 0x48#8 live with handlerRegistered := false } : State).initialiseAdmitted = false := by decide
def twice : State :=
  { State.reset with agenda := List.replicate 12 (.host (.initialise ⟨none, some 48000000, true⟩)) }
theorem witness_initialise_twice : HostAt .idle twice ∧ twice.con.getLsbD 6 = false ∧ twice.ctrl = .idle ∧
    twice.agenda = List.replicate 12 (.host (.initialise ⟨none, some 48000000, true⟩)) := ⟨⟨rfl, rfl⟩, rfl, rfl, rfl⟩
theorem witness_submit : HostAt .idle initialised ∧ probe.address ≤ 0x7F#10 ∧ initialised.con.getLsbD 6 = true :=
  ⟨⟨rfl, rfl⟩, by decide, rfl⟩
theorem witness_submit_before_initialise : HostAt .idle State.reset ∧ probe.address ≤ 0x7F#10 ∧
    State.reset.con.getLsbD 6 = false := ⟨⟨rfl, rfl⟩, by decide, rfl⟩
theorem witness_refused_calls : initialised.fatal = none ∧ initialised.host = .idle ∧
    0x7F#10 < ({ probe with address := 0x80#10 } : Submission).address ∧ (hostAt .waiting).fatal = none ∧
    (hostAt .waiting).host ≠ .idle ∧ (hostAt .waiting).host ≠ .submitInstall probe ∧
    (hostAt .waiting).host ≠ .submitStart probe ∧ (hostAt .waiting).host.pastEnable = true ∧
    (hostAt .waiting).host ≠ .initRegister ∧ (pending 0x48#8 live).fatal = none ∧ (pending 0x48#8 live).host = .idle ∧
    (pending 0x48#8 live).con.getLsbD 6 = true ∧ (pending 0x48#8 live).quiescent = false := by decide
theorem witness_out_of_place : initialised.fatal = none ∧ initialised.host ≠ .waiting ∧
    initialised.host ≠ .abortStop ∧ initialised.host ≠ .abortNack ∧ initialised.host ≠ .abortStatus ∧
    initialised.host ≠ .abortWarn ∧ initialised.host ≠ .returnClear ∧ initialised.host ≠ .returnRead := by decide
theorem witness_wait : HostAt .waiting (hostAt .waiting) ∧ (hostAt .waiting).record.busy = true ∧
    HostAt .waiting { hostAt .waiting with record := TransactionRecord.reset } ∧
    ({ hostAt .waiting with record := TransactionRecord.reset } : State).record.busy = false :=
  ⟨⟨rfl, rfl⟩, rfl, ⟨rfl, rfl⟩, rfl⟩
theorem witness_warning : HostAt .abortWarn { hostAt .abortWarn with record := unbound } ∧
    ({ hostAt .abortWarn with record := unbound } : State).record.outLength ≠ 0 ∧
    ({ hostAt .abortWarn with record := unbound } : State).record.inLength ≠ 0 ∧
    HostAt .abortWarn (hostAt .abortWarn) ∧ (hostAt .abortWarn).record.outLength = 0 :=
  ⟨⟨rfl, rfl⟩, by decide, by decide, ⟨rfl, rfl⟩, rfl⟩
def timingOut : State :=
  { hostAt .waiting with agenda := [.host (.wait true), .host .timeoutAbort, .host .timeoutAbort, .host .timeoutAbort,
      .host .timeoutAbort, .host .returnStatus, .host .returnStatus] }
theorem witness_timingOut : HostAt .waiting timingOut ∧ timingOut.record.busy = true := ⟨⟨rfl, rfl⟩, rfl⟩
theorem witness_host_completes : Instr.timeoutAbort.isEvent = false ∧
    (∃ t, exec .timeoutAbort (hostAt .abortStop) = .next t) ∧ (hostAt .abortStop).host ≠ .initClear ∧
    (hostAt .abortStop).record.busy = true := ⟨rfl, ⟨_, rfl⟩, by decide, rfl⟩

/-! ### Witnesses: steps and invariants -/

theorem witness_isr_turn : ({ pending 0x68#8 live with stat := 0x20#8, agenda := [.isr] } : State).fatal = none ∧
    decode [0x20#8] = .ok (.slawNack, []) := ⟨rfl, rfl⟩
theorem witness_turns : initialised.fatal = none ∧ initialised.agenda = [] ∧ Instr.isInitialized.isEvent = false ∧
    Instr.start.isEvent = true ∧
    ({ initialised with agenda := [.host .isInitialized] } : State).agenda = [.host .isInitialized] ∧
    ({ initialised with agenda := [.host .start] } : State).agenda = [.host .start] ∧
    ({ initialised with agenda := [.ctrl .goIdle] } : State).agenda = [.ctrl .goIdle] :=
  ⟨rfl, rfl, rfl, rfl, rfl, rfl, rfl⟩
theorem witness_raise : initialised.con.getLsbD 3 = false ∧ (pending 0x48#8 live).con.getLsbD 3 = true := ⟨rfl, rfl⟩
theorem witness_look : initialised.ctrl = .idle ∧
    ({ initialised with ctrl := .reported 0x08#8 } : State).ctrl = .reported 0x08#8 ∧
    ({ initialised with ctrl := .starting } : State).ctrl = .starting ∧
    ({ initialised with ctrl := .acting 0x08#8 0x60#8 0xA0#8 } : State).ctrl = .acting 0x08#8 0x60#8 0xA0#8 :=
  ⟨rfl, rfl, rfl, rfl⟩
def enabling : State :=
  { State.reset with
    host := .initEnable
    agenda := [.host (.initialise ⟨none, some 1, true⟩)] }
/-- Step I5 sets bit 6, and a later step finds it set. -/
theorem witness_enable : (∃ t, step enabling = .next t ∧ t.con.getLsbD 6 = true) ∧ enabling.con.getLsbD 6 = false ∧
    (∃ t, step initialised = .next t) ∧ initialised.con.getLsbD 6 = true :=
  ⟨⟨_, rfl, rfl⟩, rfl, ⟨_, rfl⟩, rfl⟩
theorem witness_system_step : ∃ sys', systemStep [State.reset, initialised] ⟨1, by decide⟩ = .next sys' := ⟨_, rfl⟩
theorem witness_other_index : (0 : Nat) ≠ (⟨1, by decide⟩ : Fin [State.reset, initialised].length).val := by decide
theorem witness_memory : Memory.wf [(1, 0x02#8), (3, 0xEF#8)] = true ∧ (1 : Nat) ≠ 3 := by decide
/-- A well-kept state and a step of it. -/
theorem witness_kept_step : (pending 0x4C#8 (receiving 2 1)).Kept ∧
    ∃ t, step { pending 0x4C#8 (receiving 2 1) with stat := 0x50#8, agenda := [.isr] } = .next t :=
  ⟨witness_store_kept.1, _, rfl⟩

/-- Empty buffers fit whatever the width is. -/
theorem witness_fits : State.reset.Kept ∧ (∃ t, step State.reset = .next t) ∧
    State.reset.record.outLength < 2 ^ Config.wSize ∧ State.reset.record.inLength < 2 ^ Config.wSize ∧
    ∀ u, State.reset.host = .submitInstall u → u.fitsUsize :=
  ⟨⟨rfl, rfl, by decide, by decide, rfl, by decide, by decide, by decide⟩, ⟨_, rfl⟩, Nat.two_pow_pos _, Nat.two_pow_pos _,
    fun _ h => nomatch h⟩
/-- And so does a submission of empty buffers, about to be installed. -/
theorem witness_fits_submission : (⟨0x50#10, .write, [], [], false, 0⟩ : Submission).fitsUsize :=
  ⟨Nat.two_pow_pos _, Nat.two_pow_pos _⟩

/-- A write of one byte, just started on an idle controller. -/
def started : State :=
  { initialised with
    con := 0x60#8
    host := .waiting
    record := { sending [0x77#8] 0 with dataIn := some [] }
    agenda := [(0x08#8, 0x00#8), (0x18#8, 0x00#8)].flatMap fun e => .ctrl .look :: deliver [e] }

theorem witness_started : started.Started := ⟨rfl, rfl, rfl, rfl, by decide, by decide⟩

theorem calm_step {n : Nat} {s : State} (t : State) (hc : calmNext s = true) (hs : step s = .next t) (ht : calmRun n t) :
    calmRun (n + 1) s :=
  ⟨hc, fun s' h => by rw [hs] at h; injection h with h; exact h ▸ ht⟩

/-- Its first six steps, the controller looking, the start and the address result raised and served, are calm and
complete. -/
theorem witness_calm_run : calmRun 6 started ∧ ∃ t, Sys2Proof.core.run 6 started = .next t :=
  ⟨calm_step _ rfl rfl (calm_step _ rfl rfl (calm_step _ rfl rfl (calm_step _ rfl rfl (calm_step _ rfl rfl
    (calm_step _ rfl rfl trivial))))), _, rfl⟩
theorem witness_calm_step : calmNext started = true ∧ ∃ t, step started = .next t := ⟨rfl, _, rfl⟩

/-- A quiescent instance to which a transaction is submitted. -/
def submitting : State := { initialised with agenda := List.replicate 3 (.host (.submitTransaction probe)) ++ [.isr] }
theorem witness_submitting : submitting.quiescent = true ∧ submitting.con.getLsbD 6 = true ∧ probe.address ≤ 0x7F#10 := by
  decide

/-! ### The controller as a premise (R160) -/

/-- This code was reported and served, these bits of `CON` and this byte were seen. -/
def acting (code con dat : Byte) : State := { initialised with ctrl := .acting code con dat }

/-- What was seen when `SI` fell counts: after the abort's A1 and F1 the byte under way is still answered. -/
theorem test_conformant_sees_earlier_values :
    conformantRaise { acting 0x18#8 0x40#8 0x11#8 with con := 0x50#8 } 0x28#8 = true ∧
    conformantRaise { acting 0x08#8 0x60#8 0xA0#8 with con := 0x50#8 } 0x18#8 = true ∧
    conformantRaise { acting 0x40#8 0x44#8 0xA1#8 with con := 0x50#8 } 0x50#8 = true := by decide
/-- The direction of the address byte, the acknowledge and a requested start each select the code. -/
theorem test_conformant_rows : conformantRaise (acting 0x08#8 0x60#8 0xA1#8) 0x18#8 = false ∧
    conformantRaise (acting 0x50#8 0x40#8 0xA1#8) 0x50#8 = false ∧
    conformantRaise (acting 0x50#8 0x40#8 0xA1#8) 0x58#8 = true ∧
    conformantRaise (acting 0x28#8 0x60#8 0x77#8) 0x10#8 = true ∧
    conformantRaise (acting 0x28#8 0x50#8 0x77#8) 0x28#8 = false := by decide
/-- The last row: an idle controller with `AA` set may report slave codes. -/
theorem test_conformant_slave : conformantRaise { initialised with con := 0x44#8 } 0xA0#8 = true ∧
    conformantRaise { initialised with con := 0x44#8 } 0x60#8 = true ∧
    conformantRaise { initialised with con := 0x40#8 } 0x60#8 = false := by decide

/-- A byte that is acknowledged is pending, with one more to come. -/
def servingByte : State :=
  { pending 0x4C#8 { receiving 2 0 with dataOut := some [] } with
    stat := 0x50#8, ctrl := .reported 0x50#8, agenda := [.isr] }
/-- The controller is receiving the byte after the first, and is about to report it as the last. -/
def receivingByte : State :=
  { acting 0x50#8 0x40#8 0xA1#8 with
    record := { receiving 2 1 with dataOut := some [] }
    agenda := [.ctrl (.raise 0x58#8 0x02#8)] }

/-- The invariant of a calm run holds in both, and their next steps are calm and complete. -/
theorem witness_undisturbed : servingByte.Undisturbed ∧ receivingByte.Undisturbed := by
  constructor <;> constructor <;> simp [servingByte, receivingByte, acting, pending, initialised, receiving, live,
    State.reset, TransactionRecord.reset, State.sta, State.si, State.sto, State.aa, namedCodes]
theorem witness_undisturbed_step : calmNext servingByte = true ∧ (∃ t, step servingByte = .next t) ∧
    calmNext receivingByte = true ∧ ∃ t, step receivingByte = .next t := ⟨rfl, ⟨_, rfl⟩, rfl, _, rfl⟩

/-! ### Witnesses: whole transactions -/

def oneByte : Submission := ⟨0x50#10, .write, [0x77#8], [], false, 0⟩
/-- Program P7 without the arbitration loss: a write of one byte; and the same with a repeated start. -/
def writing (t : Submission) : State :=
  { initialised with
    con := 0x60#8
    record := { (installRecord t) with busy := true }
    agenda := deliver ((0x08#8, 0x00#8) :: (0x18#8, 0x00#8) :: List.replicate t.outBuffer.length (0x28#8, 0x00#8)) }

theorem witness_write (rep : Bool) : (writing { oneByte with repeated := rep }).fatal = none ∧
    (writing { oneByte with repeated := rep }).handlerRegistered = true ∧
    (writing { oneByte with repeated := rep }).con.getLsbD 3 = false ∧
    ({ oneByte with repeated := rep } : Submission).direction = .write ∧
    ({ oneByte with repeated := rep } : Submission).outBuffer ≠ [] ∧
    (writing { oneByte with repeated := rep }).record.address = ({ oneByte with repeated := rep } : Submission).address ∧
    (writing { oneByte with repeated := rep }).record.operation = .write ∧
    (writing { oneByte with repeated := rep }).record.dataOut = some [(0, 0x77#8)] ∧
    (writing { oneByte with repeated := rep }).record.outLength = 1 ∧
    (writing { oneByte with repeated := rep }).record.position = 0 ∧
    (writing { oneByte with repeated := rep }).record.repeated = rep ∧
    (writing { oneByte with repeated := rep }).record.busy = true ∧
    (writing { oneByte with repeated := rep }).record.status = .success :=
  ⟨rfl, rfl, by simp [writing], rfl, by simp [oneByte], rfl, rfl, rfl, rfl, rfl, rfl, rfl, rfl⟩
theorem witness_write_buffer : ∀ k, Memory.read [(0, 0x77#8)] k = oneByte.outBuffer.getD k 0x00#8
  | 0 => rfl
  | _ + 1 => rfl

/-- Programs P3 and P6: a read of `bytes.length + 1` bytes. -/
def reading (bytes : List Byte) (last : Byte) : State :=
  { initialised with
    con := 0x60#8
    record := receiving (bytes.length + 1) 0
    agenda := deliver ((0x08#8, 0x00#8) :: (0x40#8, 0x00#8) :: bytes.map (fun b => (0x50#8, b))) ++
      deliver [(0x58#8, last)] }

theorem witness_read (bytes : List Byte) (last : Byte) : (reading bytes last).fatal = none ∧
    (reading bytes last).handlerRegistered = true ∧ (reading bytes last).con.getLsbD 3 = false ∧
    (reading bytes last).Kept ∧ (reading bytes last).record.operation = .read ∧
    (reading bytes last).record.dataIn = some [] ∧ (reading bytes last).record.inLength = bytes.length + 1 ∧
    (reading bytes last).record.position = 0 ∧ (reading bytes last).record.busy = true ∧
    (reading bytes last).record.status = .success :=
  ⟨rfl, rfl, by simp [reading], ⟨rfl, rfl, Nat.zero_le _, by simp [reading, receiving, live], rfl,
    by simp [reading, receiving, live, TransactionRecord.reset], fun _ => by simp [reading], fun _ => by simp [reading]⟩, rfl, rfl, rfl, rfl, rfl,
    rfl⟩

end Sys2Proof.Tests
end

/-! PROOFS. The address byte (R51). -/

namespace Sys2Proof.Machine

theorem rwBit_getLsbD_zero (d : Direction) : (rwBit d).getLsbD 0 = true ↔ d = .read := by
  cases d with
  | write => decide
  | read => decide

theorem rwBit_getLsbD_succ (d : Direction) (k : Nat) : (rwBit d).getLsbD (k + 1) = false := by
  cases d with
  | write => simp [rwBit]
  | read => simp [rwBit, BitVec.getLsbD_one]

theorem addrByte_getLsbD_zero (r : TransactionRecord) : (addrByte r).getLsbD 0 = (rwBit r.operation).getLsbD 0 := by
  simp [addrByte]

theorem addrByte_getLsbD_succ (r : TransactionRecord) {k : Nat} (hk : k < 7) :
    (addrByte r).getLsbD (k + 1) = r.address.getLsbD k := by
  rw [addrByte, BitVec.getLsbD_or, rwBit_getLsbD_succ, Bool.or_false, BitVec.getLsbD_shiftLeft]
  have hk8 : k + 1 < 8 := by omega
  simp [hk, hk8, Nat.lt_of_succ_lt hk8]

/-- Settles O3: the shifted address fills bits 7 to 1 and the direction bit fills bit 0, so neither reaches into the
other's place. -/
theorem addressByteLayout : Obligations.AddressByteLayout := by
  intro r
  refine ⟨fun k hk => addrByte_getLsbD_succ r hk, ?_, fun ha ho => ?_, fun ha ho => ?_⟩
  · rw [addrByte_getLsbD_zero, rwBit_getLsbD_zero]
  · rw [addrByte, ha, ho]; rfl
  · rw [addrByte, ha, ho]; rfl

end Sys2Proof.Machine

/-! PROOFS. The opcode map (R66) and the encoder against it (R65, R67, R77). -/

namespace Sys2Proof

/-- Every mask of the map is 0xFF, so a row matches its own pattern alone (R67). -/
theorem opcodeRow_matches_iff {r : OpcodeRow} (hr : r ∈ opcodeRows) (code : Byte) :
    (code &&& r.mask == r.pattern) = true ↔ code = r.pattern := by
  have hmask : ∀ r ∈ opcodeRows, r.mask = BitVec.allOnes 8 := by decide
  rw [hmask r hr, BitVec.and_allOnes, beq_iff_eq]

theorem opcodeRow_pattern_mem_namedCodes {r : OpcodeRow} (hr : r ∈ opcodeRows) : r.pattern ∈ namedCodes := by
  have hpatterns : opcodeRows.map OpcodeRow.pattern = namedCodes := rfl
  exact hpatterns ▸ List.mem_map_of_mem hr

/-- A code that is not named matches no row, which leaves the default arm (R73). -/
theorem decodeByte_of_notMem_namedCodes {code : Byte} (hcode : code ∉ namedCodes) : decodeByte code = .unknown code := by
  have hnone : opcodeRows.find? (fun r => code &&& r.mask == r.pattern) = none :=
    List.find?_eq_none.mpr fun r hr hmatch =>
      hcode ((opcodeRow_matches_iff hr code).mp hmatch ▸ opcodeRow_pattern_mem_namedCodes hr)
  rw [decodeByte, hnone]

/-- No pattern occurs in two rows: the row found for a row's pattern is that row. -/
theorem decodeByte_pattern {r : OpcodeRow} (hr : r ∈ opcodeRows) : decodeByte r.pattern = r.instr := by
  revert r; decide

/-- The encoder follows the map: the code of an event is the pattern of its row, or an unknown event's own code. -/
theorem encodeByte_eq_some_cases {i : Instr} {code : Byte} (h : encodeByte i = some code) :
    (∃ mask, ⟨code, mask, i⟩ ∈ opcodeRows) ∨ i = .unknown code := by
  cases i with
  | unknown c => exact .inr (congrArg Instr.unknown (Option.some.inj h))
  | initialise | isInitialized | submitTransaction | wait | timeoutAbort | returnStatus => nomatch h
  | _ => exact .inl ⟨0xFF#8, Option.some.inj h ▸ by decide⟩

theorem unknown_wellFormed_iff (code : Byte) : (Instr.unknown code).wellFormed = true ↔ code ∉ namedCodes := by
  simp [Instr.wellFormed]

theorem decodeByte_of_encodeByte {i : Instr} {code : Byte} (hwf : i.wellFormed = true)
    (h : encodeByte i = some code) : decodeByte code = i := by
  obtain ⟨mask, hrow⟩ | rfl := encodeByte_eq_some_cases h
  · exact decodeByte_pattern hrow
  · exact decodeByte_of_notMem_namedCodes ((unknown_wellFormed_iff code).mp hwf)

/-- Settles O2: an event's encoding is the one byte its row is found by, and the decoder takes that byte alone, so the
bytes that follow are left. -/
theorem encodedEventDecodesBack : Obligations.EncodedEventDecodesBack := by
  intro i rest hwf hevent
  obtain ⟨code, hcode⟩ := Option.isSome_iff_exists.mp hevent
  have hencode : encode i = [code] := by rw [encode, hcode]; rfl
  rw [hencode, List.singleton_append, decode, decodeByte_of_encodeByte hwf hcode]

/-- Settles O1: each of the fourteen codes is the pattern of its row, and every other code matches none. -/
theorem opcodeMapSelectsTheRow : Obligations.OpcodeMapSelectsTheRow :=
  ⟨rfl, rfl, rfl, rfl, rfl, rfl, rfl, rfl, rfl, rfl, rfl, rfl, rfl, rfl, fun _ => decodeByte_of_notMem_namedCodes⟩

end Sys2Proof

/-! PROOFS. The bus-condition events (R90 to R93). -/

namespace Sys2Proof.Machine

/-- A state in a row's frame is the row's first state with another record, `DAT` and trace. -/
theorem RowFrame.eq {s t : State} (h : RowFrame s t) :
    t = { s with record := t.record, datTx := t.datTx, trace := t.trace } := by
  cases t
  obtain ⟨-, -, -, -, -, -, rfl, rfl, rfl, rfl, rfl, rfl, rfl, rfl, rfl, rfl, rfl, -⟩ := h
  rfl

/-- An enabled event whose row is done leaves the frame of the event step with the row's masks and items, and the record
and the transmit byte of the row's last state (R81, R83). -/
theorem exec_event_done {i : Instr} {code set clr : Byte} {s t : State} {items : List TraceItem}
    (hcode : encodeByte i = some code) (hready : EventReady s)
    (hrow : rowOf i (s.emit (.statRead code)) = .done t set clr)
    (htrace : t.trace = s.trace ++ ([.statRead code] ++ items)) :
    exec i s = .next { afterEvent s code set clr items with record := t.record, datTx := t.datTx } := by
  have hframe : RowFrame (s.emit (.statRead code)) t := by
    have := rowOf_frame i (s.emit (.statRead code))
    rwa [hrow] at this
  rw [exec_event hcode, eventStep_ready hready, hrow, finishEvent_done, hframe.eq, htrace]
  simp [afterEvent]

theorem addrByte_getLsbD_zero_of_read {r : TransactionRecord} (h : r.operation = .read) :
    (addrByte r).getLsbD 0 = true := by
  rw [addrByte_getLsbD_zero, rwBit_getLsbD_zero, h]

/-- Settles O5: the row writes the status alone, and its masks are `AA ||| STO` and `SI`. -/
theorem busErrorSetsStatusAndStops : Obligations.BusErrorSetsStatusAndStops := by
  intro s hready
  have hrow : rowOf .busError (s.emit (.statRead 0x00#8)) =
      .done ((s.emit (.statRead 0x00#8)).setStatus .busError) 0x14#8 0x08#8 := rfl
  exact exec_event_done rfl hready hrow rfl

/-- Settles O6: the row is one write of the address byte to `DAT`, and it sets no control bit. -/
theorem startSendsAddressByte : Obligations.StartSendsAddressByte := by
  intro s hready
  have hrow : rowOf .start (s.emit (.statRead 0x08#8)) =
      .done ((s.emit (.statRead 0x08#8)).datWrite (addrByte s.record)) 0x00#8 0x08#8 := rfl
  exact exec_event_done rfl hready hrow (List.append_assoc ..)

/-- Settles O7: the row assembles the address byte from the record it has just turned to `Read`, whose direction bit
is 1. -/
theorem repeatedStartSendsReadAddress : Obligations.RepeatedStartSendsReadAddress := by
  intro s hready
  have hrow : rowOf .repStart (s.emit (.statRead 0x10#8)) =
      .done (switchAndAddress (s.emit (.statRead 0x10#8))) 0x00#8 0x08#8 := rfl
  exact ⟨_, rfl, addrByte_getLsbD_zero_of_read rfl, exec_event_done rfl hready hrow (List.append_assoc ..)⟩

/-- Settles O8: the row writes nothing, and its masks are `STA` and `SI`. -/
theorem arbitrationLossRetries : Obligations.ArbitrationLossRetries := by
  intro s hready
  have hrow : rowOf .arbLost (s.emit (.statRead 0x38#8)) = .done (s.emit (.statRead 0x38#8)) 0x20#8 0x08#8 := rfl
  exact exec_event_done (t := s.emit (.statRead 0x38#8)) rfl hready hrow rfl

end Sys2Proof.Machine

/-! PROOFS. The transmit events (R101 to R103). -/

namespace Sys2Proof.Machine

/-- Below the length of a bound buffer, sending the next byte is admitted (R46, R76). -/
theorem sendNext_ok {s : State} {m : Memory} (hpos : s.record.position < s.record.outLength)
    (hm : s.record.dataOut = some m) :
    s.sendNext = .ok { s with
      record := { s.record with position := s.record.position + 1 }
      datTx := m.read s.record.position
      trace := s.trace ++ [.memRead s.record.position (m.read s.record.position),
        .datWrite (m.read s.record.position)] } := by
  simp only [sendNext_eq, hm, if_pos hpos]

/-! ### The row of 0x28, branch by branch -/

theorem rowOf_txdataAck_of_repeated {s : State} (hend : s.record.outLength ≤ s.record.position)
    (hrep : s.record.repeated = true) :
    rowOf .txdataAck s = .done ((s.setOperation .read).setPosition 0) STA SI := by
  rw [rowOf, rowTxdataAck, if_pos hend, if_pos hrep]

theorem rowOf_txdataAck_of_last {s : State} (hend : s.record.outLength ≤ s.record.position)
    (hrep : s.record.repeated = false) : rowOf .txdataAck s = .done (s.setBusy false) STO SI := by
  rw [rowOf, rowTxdataAck, if_pos hend, if_neg (ne_true_of_eq_false hrep)]

theorem rowOf_txdataAck_of_sendNext {s t : State} (hpos : s.record.position < s.record.outLength)
    (hsend : s.sendNext = .ok t) : rowOf .txdataAck s = .done t 0x00#8 SI := by
  rw [rowOf, rowTxdataAck, if_neg (Nat.not_le.mpr hpos), hsend]

/-! ### The statements -/

/-- Settles O11: the row tests the cursor, then at the end of the buffer `repeated`; in each branch the frame of the
event step is applied to what that branch leaves, with `STA`, `STO` or no set mask. -/
theorem dataSentAcknowledged : Obligations.DataSentAcknowledged := by
  intro s hready
  refine ⟨fun hend hrep => ?phaseSwitch, fun hend hrep => ?finish, fun m hpos hm => ?nextByte⟩
  case phaseSwitch =>
    have hrow := rowOf_txdataAck_of_repeated (s := s.emit (.statRead 0x28#8)) hend hrep
    exact exec_event_done rfl hready hrow rfl
  case finish =>
    have hrow := rowOf_txdataAck_of_last (s := s.emit (.statRead 0x28#8)) hend hrep
    exact exec_event_done rfl hready hrow rfl
  case nextByte =>
    have hsend := sendNext_ok (s := s.emit (.statRead 0x28#8)) hpos hm
    have hrow := rowOf_txdataAck_of_sendNext (s := s.emit (.statRead 0x28#8)) hpos hsend
    exact exec_event_done rfl hready hrow (List.append_assoc ..)

/-- Settles O10: the row writes `busy` and the status, and its masks are `STO` and `SI ||| STA`. -/
theorem writeAddressRefused : Obligations.WriteAddressRefused := by
  intro s hready
  have hrow : rowOf .slawNack (s.emit (.statRead 0x20#8)) =
      .done (((s.emit (.statRead 0x20#8)).setBusy false).setStatus .deviceNotFound) 0x10#8 0x28#8 := rfl
  exact exec_event_done rfl hready hrow rfl

/-- Settles O12: the row writes `busy` alone, and its masks are `STO` and `SI`. -/
theorem dataSentRefused : Obligations.DataSentRefused := by
  intro s hready
  have hrow : rowOf .txdataNack (s.emit (.statRead 0x30#8)) =
      .done ((s.emit (.statRead 0x30#8)).setBusy false) 0x10#8 0x08#8 := rfl
  exact exec_event_done rfl hready hrow rfl

end Sys2Proof.Machine

/-! PROOFS. The receive events (R110 to R112). -/

namespace Sys2Proof.Machine

/-- Below the length of a bound buffer, storing the received byte is admitted (R47, R76). -/
theorem storeNext_ok {s : State} {m : Memory} (hpos : s.record.position < s.record.inLength)
    (hm : s.record.dataIn = some m) :
    s.storeNext = .ok { s with
      record := { s.record with
        dataIn := some (m.write s.record.position s.datRx)
        position := s.record.position + 1 }
      trace := s.trace ++ [.datRead s.datRx, .memWrite s.record.position s.datRx] } := by
  simp only [storeNext_eq, hm, if_pos hpos]

/-! ### The row of 0x40 -/

theorem slarAckMasks_of_two_le {n : Nat} (h : 2 ≤ n) : slarAckMasks n = (AA, SI ||| STA) := by
  rw [slarAckMasks, if_neg (by omega), if_neg (by omega)]

/-- The row writes nothing, whatever its masks are. -/
theorem rowOf_slarAck_of_masks {s : State} {set clr : Byte} (h : slarAckMasks s.record.inLength = (set, clr)) :
    rowOf .slarAck s = .done s set clr := by
  rw [rowOf, rowSlarAck, h]

/-- An enabled 0x40 is the frame of the event step with the masks the length selects. -/
theorem exec_slarAck_of_masks {s : State} {set clr : Byte} (hready : EventReady s)
    (h : slarAckMasks s.record.inLength = (set, clr)) :
    exec .slarAck s = .next (afterEvent s 0x40#8 set clr []) :=
  have hrow := rowOf_slarAck_of_masks (s := s.emit (.statRead 0x40#8)) h
  exec_event_done (t := s.emit (.statRead 0x40#8)) rfl hready hrow rfl

/-! ### The row of 0x50, test by test -/

theorem lookAhead_of_last {s : State} (h : s.record.inLength ≤ s.record.position + 1) :
    lookAhead s = .done (s.setBusy false) 0x00#8 (SI ||| AA) := by
  rw [lookAhead, withholdAck, if_pos (decide_eq_true h)]

theorem lookAhead_of_more {s : State} (h : s.record.position + 1 < s.record.inLength) :
    lookAhead s = .done s AA SI := by
  rw [lookAhead, withholdAck, if_neg (by simpa using h)]

theorem rowOf_rxdataAck_of_full {s : State} (hfull : s.record.inLength ≤ s.record.position) :
    rowOf .rxdataAck s = lookAhead s := by
  rw [rowOf, rowRxdataAck, if_neg (Nat.not_lt.mpr hfull)]

theorem rowOf_rxdataAck_of_storeNext {s t : State} (hpos : s.record.position < s.record.inLength)
    (hstore : s.storeNext = .ok t) : rowOf .rxdataAck s = lookAhead t := by
  rw [rowOf, rowRxdataAck, if_pos hpos, hstore]

/-! ### The statements -/

/-- Settles O13: the length selects the masks, and with them the frame of the event step is all that is written. -/
theorem readAddressAcknowledged : Obligations.ReadAddressAcknowledged := by
  intro s hready
  refine ⟨fun hlen => ?none, fun hlen => ?single, fun hlen => ?several⟩
  case none => exact exec_slarAck_of_masks hready (by rw [hlen]; rfl)
  case single => exact exec_slarAck_of_masks hready (by rw [hlen]; rfl)
  case several => exact exec_slarAck_of_masks hready (slarAckMasks_of_two_le hlen)

/-- Settles O15: below the length the row stores, and then looks ahead from the cursor the store advanced; at or past it
the row looks ahead at once, and the byte that would come next is past the end. -/
theorem dataReceivedAcknowledged : Obligations.DataReceivedAcknowledged := by
  intro s hready
  refine ⟨fun m hpos hm => ?store, fun hfull => ?full⟩
  case store =>
    have hstore := storeNext_ok (s := s.emit (.statRead 0x50#8)) hpos hm
    have hrow := rowOf_rxdataAck_of_storeNext (s := s.emit (.statRead 0x50#8)) hpos hstore
    refine ⟨fun hlast => ?last, fun hmore => ?more⟩
    case last => exact exec_event_done rfl hready (hrow.trans (lookAhead_of_last hlast)) (List.append_assoc ..)
    case more => exact exec_event_done rfl hready (hrow.trans (lookAhead_of_more hmore)) (List.append_assoc ..)
  case full =>
    have hrow := rowOf_rxdataAck_of_full (s := s.emit (.statRead 0x50#8)) hfull
    exact exec_event_done rfl hready (hrow.trans (lookAhead_of_last (Nat.le_succ_of_le hfull))) rfl

/-- Settles O14: the row writes the status and `busy`, and its masks are `STO` and `SI ||| STA`. -/
theorem readAddressRefused : Obligations.ReadAddressRefused := by
  intro s hready
  have hrow : rowOf .slarNack (s.emit (.statRead 0x48#8)) =
      .done (((s.emit (.statRead 0x48#8)).setStatus .deviceNotFound).setBusy false) 0x10#8 0x28#8 := rfl
  exact exec_event_done rfl hready hrow rfl

end Sys2Proof.Machine

/-! PROOFS. The events without an action (R120, R121). -/

namespace Sys2Proof.Machine

/-- An enabled event whose row writes nothing leaves the frame of the event step alone, with the row's masks. -/
theorem exec_event_of_row_writes_nothing {i : Instr} {code set clr : Byte} {s : State}
    (hcode : encodeByte i = some code) (hready : EventReady s)
    (hrow : rowOf i (s.emit (.statRead code)) = .done (s.emit (.statRead code)) set clr) :
    exec i s = .next (afterEvent s code set clr []) :=
  exec_event_done (t := s.emit (.statRead code)) hcode hready hrow rfl

/-- Settles O17: the rows of 0xA0 and 0xF8 write nothing, so each step is its frame, which sets no bit and clears
`SI`. -/
theorem noActionEventsOnlyClearTheFlag : Obligations.NoActionEventsOnlyClearTheFlag := by
  intro s hready
  refine ⟨?slaveAddr, ?noState⟩
  case slaveAddr =>
    have hrow : rowOf .slaveAddr (s.emit (.statRead 0xA0#8)) = .done (s.emit (.statRead 0xA0#8)) 0x00#8 0x08#8 := rfl
    exact exec_event_of_row_writes_nothing rfl hready hrow
  case noState =>
    have hrow : rowOf .noState (s.emit (.statRead 0xF8#8)) = .done (s.emit (.statRead 0xF8#8)) 0x00#8 0x08#8 := rfl
    exact exec_event_of_row_writes_nothing rfl hready hrow

end Sys2Proof.Machine

/-! PROOFS. The return of a transaction (R136). -/

namespace Sys2Proof.Machine

/-- F1 is one clear of START, and the foreground goes on to F2. -/
theorem exec_returnStatus_of_returnClear {s : State} (h : HostAt .returnClear s) :
    exec .returnStatus s = .next ((s.conClr STA).goto .returnRead) := by
  obtain ⟨hpoint, hfatal⟩ := h
  rw [exec, execReturnStatus, hostStep_none hfatal, hpoint]

/-- F2 is one read of the status, handed to the caller. -/
theorem exec_returnStatus_of_returnRead {s : State} (h : HostAt .returnRead s) :
    exec .returnStatus s = .next (returnRead s) := by
  obtain ⟨hpoint, hfatal⟩ := h
  rw [exec, execReturnStatus, hostStep_none hfatal, hpoint]

/-- Settles O39: F1 writes `CON`, the trace item of that write and the foreground's point; F2 writes the trace item of
the return, the value returned and the foreground's point. -/
theorem returnMicroSteps : Obligations.ReturnMicroSteps := by
  intro s
  refine ⟨fun hclear => ?f1, fun hread => ?f2⟩
  case f1 => exact exec_returnStatus_of_returnClear hclear
  case f2 => exact exec_returnStatus_of_returnRead hread

end Sys2Proof.Machine

/-! PROOFS. Masks of the control register (R25), and what no step does to it (R30, R31, R38). -/

namespace Sys2Proof.Machine

/-- No bit of a mask is set in a byte that has none of them. -/
theorem getLsbD_eq_false_of_and_eq_zero {x m : Byte} {k : Nat} (h : x &&& m = 0#8) (hk : m.getLsbD k = true) :
    x.getLsbD k = false := by
  have hbit := congrArg (·.getLsbD k) h
  simpa [hk] using hbit

/-- A set-write and a clear-write outside a mask leave the mask's bits as they were. -/
theorem setThenClear_and_of_disjoint {c set clr m : Byte} (hset : set &&& m = 0#8) (hclr : clr &&& m = 0#8) :
    (c ||| set) &&& ~~~clr &&& m = c &&& m := by
  ext k hk
  cases hm : m[k]
  · simp [hm]
  · have hm' : m.getLsbD k = true := by rwa [BitVec.getLsbD_eq_getElem hk]
    have hs := getLsbD_eq_false_of_and_eq_zero hset hm'
    have hc := getLsbD_eq_false_of_and_eq_zero hclr hm'
    rw [BitVec.getLsbD_eq_getElem hk] at hs hc
    simp [hs, hc]

/-- Masks that share no bit may be applied in either order. -/
theorem setThenClear_eq_clearThenSet {c set clr : Byte} (h : set &&& clr = 0#8) :
    (c ||| set) &&& ~~~clr = (c &&& ~~~clr) ||| set := by
  ext k hk
  cases hs : set[k]
  · simp [hs]
  · have hs' : set.getLsbD k = true := by rwa [BitVec.getLsbD_eq_getElem hk]
    have hc := getLsbD_eq_false_of_and_eq_zero ((BitVec.and_comm ..).trans h) hs'
    rw [BitVec.getLsbD_eq_getElem hk] at hc
    simp [hs, hc]

theorem setThenClear_getLsbD (c set clr : Byte) {k : Nat} (hk : k < 8) :
    ((c ||| set) &&& ~~~clr).getLsbD k = ((c.getLsbD k || set.getLsbD k) && !clr.getLsbD k) := by
  simp [hk]

/-- Settles O46: a step's masks avoid bits 0, 1 and 7 (`step_con`). -/
theorem reservedControlBitsNeverChange : Obligations.ReservedControlBitsNeverChange := by
  intro s t h
  obtain ⟨set, clr, hcon, hset, hclr, -, -⟩ := step_con h
  have hclr' : clr &&& 0x83#8 = 0#8 := by
    calc clr &&& 0x83#8 = clr &&& 0xC3#8 &&& 0x83#8 := by rw [BitVec.and_assoc]; rfl
      _ = 0#8 := by rw [hclr, BitVec.zero_and]
  rw [hcon, setThenClear_and_of_disjoint hset hclr']

/-- Settles O47: a step's clear mask avoids bit 6, and its set mask holds it only at I5 (`step_con`). -/
theorem interfaceEnableIsNeverCleared : Obligations.InterfaceEnableIsNeverCleared := by
  intro s t h
  obtain ⟨set, clr, hcon, -, hclr, hset6, -⟩ := step_con h
  have hclr6 : clr.getLsbD 6 = false := getLsbD_eq_false_of_and_eq_zero hclr rfl
  have ht6 : t.con.getLsbD 6 = (s.con.getLsbD 6 || set.getLsbD 6) := by
    rw [hcon, setThenClear_getLsbD _ _ _ (by decide), hclr6, Bool.not_false, Bool.and_true]
  refine ⟨fun hs => ?kept, fun hs ht => ?enabled⟩
  case kept => rw [ht6, hs, Bool.true_or]
  case enabled => exact hset6 (by rwa [ht6, hs, Bool.false_or] at ht)

/-- Settles O48: whatever a step does, it appends (`step_con`). -/
theorem traceOnlyGrows : Obligations.TraceOnlyGrows := by
  intro s t h
  obtain ⟨-, -, -, -, -, -, hgrows⟩ := step_con h
  exact hgrows

end Sys2Proof.Machine

/-! PROOFS. What a step makes of the Transaction Record, and the invariant of every state (R12, R20, R22, R36, R172). -/

namespace Sys2Proof.Machine

/-- What the row of an event makes of the record, with this byte received (R90 to R122): flags and the phase alone; the
cursor back to 0 for the read phase; a byte sent; or a byte stored. -/
inductive RecordWrite (i : Instr) (rx : Byte) (r : TransactionRecord) : TransactionRecord → Prop where
  | flags (op busy st) (hop : op = r.operation ∨ op = .read) (hbusy : busy = r.busy ∨ busy = false)
      (hst : st = r.status ∨ st ≠ .inProgress) :
      RecordWrite i rx r { r with operation := op, busy := busy, status := st }
  | rewound : RecordWrite i rx r { r with operation := .read, position := 0 }
  | sent (hpos : r.position < r.outLength) : RecordWrite i rx r { r with position := r.position + 1 }
  | stored (m busy) (hi : i = .rxdataAck ∨ i = .rxdataNack) (hbusy : busy = r.busy ∨ busy = false)
      (hm : r.dataIn = some m) (hpos : r.position < r.inLength) :
      RecordWrite i rx r
        { r with dataIn := some (m.write r.position rx), position := r.position + 1, busy := busy }

theorem RecordWrite.unchanged (i : Instr) (rx : Byte) (r : TransactionRecord) : RecordWrite i rx r r :=
  .flags r.operation r.busy r.status (.inl rfl) (.inl rfl) (.inl rfl)

theorem RecordWrite.busyFalse (i : Instr) (rx : Byte) (r : TransactionRecord) :
    RecordWrite i rx r { r with busy := false } :=
  .flags r.operation false r.status (.inl rfl) (.inr rfl) (.inl rfl)

theorem RecordWrite.ended (i : Instr) (rx : Byte) (r : TransactionRecord) {st : Status} (hst : st ≠ .inProgress) :
    RecordWrite i rx r { r with busy := false, status := st } :=
  .flags r.operation false st (.inl rfl) (.inr rfl) (.inr hst)

/-- The look-ahead of 0x50 writes `busy` at most (R112). -/
theorem lookAhead_record (s : State) :
    (lookAhead s).state.record = { s.record with busy := (lookAhead s).state.record.busy } ∧
      ((lookAhead s).state.record.busy = s.record.busy ∨ (lookAhead s).state.record.busy = false) := by
  unfold lookAhead
  split
  · exact ⟨rfl, .inr rfl⟩
  · exact ⟨rfl, .inl rfl⟩

/-- Every row makes one of these writes. -/
theorem rowOf_recordWrite (i : Instr) (s : State) : RecordWrite i s.datRx s.record (rowOf i s).state.record := by
  cases i with
  | start | arbLost | slarAck | slaveAddr | noState | unknown
  | initialise | isInitialized | submitTransaction | wait | timeoutAbort | returnStatus =>
    exact .unchanged _ _ _
  | busError => exact .flags _ _ .busError (.inl rfl) (.inl rfl) (.inr nofun)
  | repStart => exact .flags .read _ _ (.inr rfl) (.inl rfl) (.inl rfl)
  | slawNack | slarNack => exact .ended _ _ _ nofun
  | txdataNack => exact .busyFalse _ _ _
  | slawAck =>
    simp only [rowOf, rowSlawAck]
    split
    · exact .ended _ _ _ nofun
    · obtain ⟨m, -, hpos, hsend⟩ | ⟨-, hsend⟩ := sendNext_cases s <;> rw [hsend]
      · exact .sent hpos
      · exact .unchanged _ _ _
  | txdataAck =>
    simp only [rowOf, rowTxdataAck]
    split
    · split
      · exact .rewound
      · exact .busyFalse _ _ _
    · obtain ⟨m, -, hpos, hsend⟩ | ⟨-, hsend⟩ := sendNext_cases s <;> rw [hsend]
      · exact .sent hpos
      · exact .unchanged _ _ _
  | rxdataAck =>
    simp only [rowOf, rowRxdataAck]
    split
    · obtain ⟨m, hm, hpos, hstore⟩ | ⟨-, hstore⟩ := storeNext_cases s <;> rw [hstore]
      · simp only
        obtain ⟨hrec, hbusy⟩ := lookAhead_record { s with
          record := { s.record with dataIn := some (m.write s.record.position s.datRx), position := s.record.position + 1 }
          trace := s.trace ++ [.datRead s.datRx, .memWrite s.record.position s.datRx] }
        rw [hrec]
        exact .stored m _ (.inl rfl) hbusy hm hpos
      · exact .unchanged _ _ _
    · obtain ⟨hrec, hbusy⟩ := lookAhead_record s
      rw [hrec]
      exact .flags _ _ _ (.inl rfl) hbusy (.inl rfl)
  | rxdataNack =>
    simp only [rowOf, rowRxdataNack]
    split
    · obtain ⟨m, hm, hpos, hstore⟩ | ⟨-, hstore⟩ := storeNext_cases (s.setBusy false) <;> rw [hstore]
      · exact .stored m false (.inr rfl) (.inr rfl) hm hpos
      · exact .busyFalse _ _ _
    · exact .busyFalse _ _ _

/-- So does every event that completes; the masks and the latch are no part of the record. -/
theorem exec_event_recordWrite {i : Instr} {s t : State} (hi : i.isEvent = true) (h : exec i s = .next t) :
    RecordWrite i s.datRx s.record t.record := by
  obtain ⟨-, code, -, rfl⟩ := exec_event_next hi h
  rw [finishEvent_record]
  exact rowOf_recordWrite i (s.emit (.statRead code))

/-- The controller's turn leaves the record, the foreground and the handler alone (R10, R35). -/
theorem ctrlStep_frame {a : CtrlAct} {s t : State} (h : ctrlStep a s = .next t) :
    t.record = s.record ∧ t.host = s.host ∧ t.handlerRegistered = s.handlerRegistered := by
  obtain ⟨_, _, -, -, rfl⟩ | ⟨-, rfl⟩ | ⟨-, rfl⟩ | ⟨-, rfl⟩ | ⟨-, rfl⟩ := ctrlStep_cases h <;> exact ⟨rfl, rfl, rfl⟩

/-- An event leaves the foreground and the handler alone (R152). -/
theorem exec_event_frame {i : Instr} {s t : State} (hi : i.isEvent = true) (h : exec i s = .next t) :
    t.host = s.host ∧ t.handlerRegistered = s.handlerRegistered := by
  obtain ⟨-, _, -, ⟨_, _, _, -, -, hframe, rfl⟩ | ⟨_, _, -, hframe, rfl⟩⟩ := exec_event_cases hi h <;>
    exact ⟨hframe.host, hframe.handlerRegistered⟩

/-- A step is one of the bus side, which writes the record as a row does and leaves the foreground and the handler alone, or
a micro-step of the foreground. -/
theorem step_sides {s t : State} (h : step s = .next t) :
    ((∃ i, RecordWrite i s.datRx s.record t.record) ∧ t.host = s.host ∧ t.handlerRegistered = s.handlerRegistered) ∨
    ∃ i rest, HostEffect i { s with agenda := rest } t := by
  obtain ⟨-, ⟨-, rfl⟩ | ⟨rest, -, h⟩ | ⟨i, rest, -, hi, h⟩ | ⟨a, rest, -, h⟩⟩ := step_cases h
  · exact .inl ⟨⟨.noState, .unchanged _ _ _⟩, rfl, rfl⟩
  · have hi := decodeByte_isEvent s.stat
    have hwrite := exec_event_recordWrite (s := { s with agenda := rest }) hi h
    exact .inl ⟨⟨_, hwrite⟩, exec_event_frame (s := { s with agenda := rest }) hi h⟩
  · obtain ⟨-, heffect⟩ := exec_host_cases hi h
    exact .inr ⟨i, rest, heffect⟩
  · obtain ⟨hrec, hframe⟩ := ctrlStep_frame h
    exact .inl ⟨⟨.noState, by rw [hrec]; exact .unchanged _ _ _⟩, hframe⟩

/-- What a micro-step of the foreground makes of the record: nothing, the abort's status, or a submission's install
(R132, R135). -/
theorem HostEffect.record_cases {i : Instr} {s t : State} (h : HostEffect i s t) :
    t.record = s.record ∨ t.record = { s.record with status := .timedOut } ∨
      ∃ u, i = .submitTransaction u ∧ s.host = .submitInstall u ∧ t.record = installRecord u := by
  cases h with
  | a3 => exact .inr (.inl rfl)
  | s2 u s hh => exact .inr (.inr ⟨u, rfl, hh, rfl⟩)
  | _ => exact .inl rfl

/-- The handler is registered by I6 alone (R130). -/
theorem HostEffect.handlerRegistered {i : Instr} {s t : State} (h : HostEffect i s t)
    (ht : t.handlerRegistered = true) : s.handlerRegistered = true ∨ s.host = .initRegister := by
  cases h with
  | i6Ok a s hh => exact .inr hh
  | _ => exact .inl ht

/-- The foreground gets past the enabling only from there, through I5, or through the guard of a submission. -/
theorem HostEffect.pastEnable {i : Instr} {s t : State} (h : HostEffect i s t) (ht : t.host.pastEnable = true) :
    s.host.pastEnable = true ∨ t.con.getLsbD 6 = true := by
  cases h with
  | i5 => exact .inr (by simp)
  | s1Ok _ _ _ _ he => exact .inr he
  | s1Fault => exact .inl ht
  | waitOn => exact .inl ht
  | i1Ok | i1Fail | i2Ok | i2Fail | i3 | i4 | i6Ok | i6Fail | query | f2 => exact nomatch ht
  | s2 _ _ hh | s3 _ _ hh | waitOver _ _ hh | waitAbort _ hh | a1 _ hh | a2 _ hh | a3 _ hh | a4Warn _ hh
  | a4Quiet _ hh | f1 _ hh => exact .inl (by rw [hh]; rfl)

/-- A submission that waits for its install has passed the test of its address. -/
theorem HostEffect.addressLegal {i : Instr} {s t : State} (h : HostEffect i s t) (hs : s.host.addressLegal = true) :
    t.host.addressLegal = true := by
  cases h with
  | s1Ok u s _ ha => exact decide_eq_true ha
  | s1Fault => exact hs
  | waitOn => exact hs
  | _ => rfl

/-- The part of `State.Kept` that speaks of the record. -/
structure TransactionRecord.Kept (r : TransactionRecord) : Prop where
  outKept : bufferKept r.outLength r.dataOut = true
  inKept : bufferKept r.inLength r.dataIn = true
  cursor : r.position ≤ max r.outLength r.inLength
  address : r.address ≤ 0x7F#10
  status : r.status ≠ .inProgress

theorem State.Kept.record {s : State} (h : s.Kept) : s.record.Kept :=
  ⟨h.outKept, h.inKept, h.cursor, h.address, h.status⟩

/-- A row keeps the record's part: the cursor advances only below a length, and what is stored there keeps the form. -/
theorem RecordWrite.keeps {i : Instr} {rx : Byte} {r r' : TransactionRecord} (h : RecordWrite i rx r r')
    (hr : r.Kept) : r'.Kept := by
  obtain ⟨hout, hin, hcursor, haddress, hstatus⟩ := hr
  cases h with
  | flags op busy st _ _ hst => exact ⟨hout, hin, hcursor, haddress, hst.elim (fun e => e ▸ hstatus) id⟩
  | rewound => exact ⟨hout, hin, Nat.zero_le _, haddress, hstatus⟩
  | sent hpos => exact ⟨hout, hin, le_max_of_le_left hpos, haddress, hstatus⟩
  | stored m busy _ _ hm hpos =>
    exact ⟨hout, bufferKept_write (hm ▸ hin) hpos, le_max_of_le_right hpos, haddress, hstatus⟩

theorem installRecord_kept {u : Submission} (h : u.address ≤ 0x7F#10) : (installRecord u).Kept :=
  ⟨bufferKept_ofBytes _, bufferKept_ofBytes _, Nat.zero_le _, h, nofun⟩

theorem HostEffect.keeps_record {i : Instr} {s t : State} (h : HostEffect i s t) (hs : s.Kept) : t.record.Kept := by
  obtain ⟨hout, hin, hcursor, haddress, -⟩ := hs.record
  obtain hrec | hrec | ⟨u, -, hu, hrec⟩ := h.record_cases <;> rw [hrec]
  · exact hs.record
  · exact ⟨hout, hin, hcursor, haddress, nofun⟩
  · have hlegal := hs.hostAddress
    rw [hu] at hlegal
    exact installRecord_kept (of_decide_eq_true hlegal)

/-- Settles O54: the record's part is kept by every row and every micro-step; the rest speaks of bit 6 of `CON`, which no
step clears and which is set before the handler is registered and before the foreground goes on. -/
theorem stepKeepsTheStateWellKept : Obligations.StepKeepsTheStateWellKept := by
  intro s t hs h
  have henable : s.con.getLsbD 6 = true → t.con.getLsbD 6 = true := (interfaceEnableIsNeverCleared s t h).1
  obtain ⟨⟨i, hwrite⟩, hhost, hregistered⟩ | ⟨i, rest, heffect⟩ := step_sides h
  case inl =>
    obtain ⟨hout, hin, hcursor, haddress, hstatus⟩ := hwrite.keeps hs.record
    exact ⟨hout, hin, hcursor, haddress, hhost ▸ hs.hostAddress, hstatus,
      fun ht => henable (hs.handlerEnabled (hregistered ▸ ht)), fun ht => henable (hs.hostEnabled (hhost ▸ ht))⟩
  case inr =>
    have hs' : State.Kept { s with agenda := rest } := { hs with }
    obtain ⟨hout, hin, hcursor, haddress, hstatus⟩ := heffect.keeps_record hs'
    refine ⟨hout, hin, hcursor, haddress, heffect.addressLegal hs.hostAddress, hstatus, fun ht => ?handler, fun ht => ?host⟩
    case handler =>
      obtain hreg | hpoint := heffect.handlerRegistered ht
      · exact henable (hs.handlerEnabled hreg)
      · have hpoint : s.host = .initRegister := hpoint
        exact henable (hs.hostEnabled (by rw [hpoint]; rfl))
    case host => exact (heffect.pastEnable ht).elim (fun hpast => henable (hs.hostEnabled hpast)) id

theorem RecordWrite.lengths {i : Instr} {rx : Byte} {r r' : TransactionRecord} (h : RecordWrite i rx r r') :
    r'.outLength = r.outLength ∧ r'.inLength = r.inLength := by
  cases h <;> exact ⟨rfl, rfl⟩

/-- A step leaves the lengths as they are, or installs those of the submission the foreground stands before. -/
theorem step_lengths {s t : State} (h : step s = .next t) :
    (t.record.outLength = s.record.outLength ∧ t.record.inLength = s.record.inLength) ∨
    ∃ u, s.host = .submitInstall u ∧ t.record = installRecord u := by
  obtain ⟨⟨i, hwrite⟩, -, -⟩ | ⟨i, rest, heffect⟩ := step_sides h
  · exact .inl hwrite.lengths
  · obtain hrec | hrec | ⟨u, -, hu, hrec⟩ := heffect.record_cases
    · exact .inl (by rw [hrec]; exact ⟨rfl, rfl⟩)
    · exact .inl (by rw [hrec]; exact ⟨rfl, rfl⟩)
    · exact .inr ⟨u, hu, hrec⟩

/-- Settles O55: the lengths stay or are those of a submission that fits, and the cursor of a well-kept state does not
exceed them. -/
theorem cursorNeverWraps : Obligations.CursorNeverWraps := by
  intro s t hs h hout hin hfits
  have hlengths : t.record.outLength < 2 ^ Config.wSize ∧ t.record.inLength < 2 ^ Config.wSize := by
    obtain ⟨ho, hi⟩ | ⟨u, hu, hrec⟩ := step_lengths h
    · exact ⟨ho ▸ hout, hi ▸ hin⟩
    · rw [hrec]; exact hfits u hu
  obtain ⟨ho, hi⟩ := hlengths
  exact ⟨ho, hi, (stepKeepsTheStateWellKept s t hs h).cursor.trans_lt (max_lt ho hi)⟩

/-- Settles O53: every field at reset is a literal. -/
theorem resetIsWellKept : Obligations.ResetIsWellKept :=
  ⟨rfl, rfl, Nat.zero_le _, by decide, rfl, nofun, nofun, nofun⟩

end Sys2Proof.Machine

/-! PROOFS. The rows that index a buffer (R100, R102, R112, R113), and the faults an event latches (R48, R122). -/

namespace Sys2Proof.Machine

/-- An enabled event whose row raises a fault leaves the frame of a faulted event step, and the record and the transmit byte
of the row's last state (R88). -/
theorem exec_event_raised {i : Instr} {code : Byte} {s t : State} {f : Fault} (hcode : encodeByte i = some code)
    (hready : EventReady s) (hrow : rowOf i (s.emit (.statRead code)) = .raised t f)
    (htrace : t.trace = s.trace ++ [.statRead code]) :
    exec i s = .next { afterFault s code f with record := t.record, datTx := t.datTx } := by
  have hframe : RowFrame (s.emit (.statRead code)) t := by
    have := rowOf_frame i (s.emit (.statRead code))
    rwa [hrow] at this
  rw [exec_event hcode, eventStep_ready hready, hrow, finishEvent_raised, hframe.eq, htrace]
  simp [afterFault]

/-- Settles O18: the row of an unknown code raises the fault and writes nothing. -/
theorem unknownCodeLatchesTheFault : Obligations.UnknownCodeLatchesTheFault := by
  intro s code hready
  exact exec_event_raised (t := s.emit (.statRead code)) rfl hready rfl rfl

/-! ### Refused accesses -/

theorem sendNext_error {s : State} (h : s.record.dataOut = none ∨ s.record.outLength ≤ s.record.position) :
    s.sendNext = .error (.bufferBounds .out s.record.position s.record.outLength) := by
  obtain ⟨m, hm, hpos, -⟩ | ⟨-, hsend⟩ := sendNext_cases s
  · obtain hnone | hend := h
    · exact nomatch hm.symm.trans hnone
    · exact absurd hend (Nat.not_le.mpr hpos)
  · exact hsend

theorem storeNext_error {s : State} (h : s.record.dataIn = none ∨ s.record.inLength ≤ s.record.position) :
    s.storeNext = .error (.bufferBounds .in s.record.position s.record.inLength) := by
  obtain ⟨m, hm, hpos, -⟩ | ⟨-, hstore⟩ := storeNext_cases s
  · obtain hnone | hend := h
    · exact nomatch hm.symm.trans hnone
    · exact absurd hend (Nat.not_le.mpr hpos)
  · exact hstore

/-! ### The rows, branch by branch -/

theorem rowOf_slawAck_of_zero {s : State} (hlen : s.record.outLength = 0) :
    rowOf .slawAck s = .done ((s.setBusy false).setStatus .success) STO (SI ||| STA) := by
  rw [rowOf, rowSlawAck, if_pos hlen]

theorem rowOf_slawAck_of_sendNext {s t : State} (hlen : s.record.outLength ≠ 0) (hsend : s.sendNext = .ok t) :
    rowOf .slawAck s = .done t 0x00#8 (SI ||| STA) := by
  rw [rowOf, rowSlawAck, if_neg hlen, hsend]

theorem rowOf_slawAck_of_refused {s : State} {f : Fault} (hlen : s.record.outLength ≠ 0) (hsend : s.sendNext = .error f) :
    rowOf .slawAck s = .raised s f := by
  rw [rowOf, rowSlawAck, if_neg hlen, hsend]

theorem rowOf_txdataAck_of_refused {s : State} {f : Fault} (hpos : s.record.position < s.record.outLength)
    (hsend : s.sendNext = .error f) : rowOf .txdataAck s = .raised s f := by
  rw [rowOf, rowTxdataAck, if_neg (Nat.not_le.mpr hpos), hsend]

theorem rowOf_rxdataAck_of_refused {s : State} {f : Fault} (hpos : s.record.position < s.record.inLength)
    (hstore : s.storeNext = .error f) : rowOf .rxdataAck s = .raised s f := by
  rw [rowOf, rowRxdataAck, if_pos hpos, hstore]

theorem rowOf_rxdataNack_of_zero {s : State} (hlen : s.record.inLength = 0) :
    rowOf .rxdataNack s = .done (s.setBusy false) STO SI := by
  have hlen' : ¬ (s.setBusy false).record.inLength ≠ 0 := not_not.mpr hlen
  rw [rowOf, rowRxdataNack, if_neg hlen']

theorem rowOf_rxdataNack_of_storeNext {s t : State} (hlen : s.record.inLength ≠ 0)
    (hstore : (s.setBusy false).storeNext = .ok t) : rowOf .rxdataNack s = .done t STO SI := by
  have hlen' : (s.setBusy false).record.inLength ≠ 0 := hlen
  rw [rowOf, rowRxdataNack, if_pos hlen', hstore]

theorem rowOf_rxdataNack_of_refused {s : State} {f : Fault} (hlen : s.record.inLength ≠ 0)
    (hstore : (s.setBusy false).storeNext = .error f) : rowOf .rxdataNack s = .raised (s.setBusy false) f := by
  have hlen' : (s.setBusy false).record.inLength ≠ 0 := hlen
  rw [rowOf, rowRxdataNack, if_pos hlen', hstore]

/-! ### The statements -/

/-- Settles O19: in each of the four rows a refused access ends the row with the fault, in the state the access was tried
in. -/
theorem refusedAccessLatchesBufferBounds : Obligations.RefusedAccessLatchesBufferBounds := by
  intro s hready
  refine ⟨fun hlen href => ?slawAck, fun hpos hnone => ?txdataAck, fun hpos hnone => ?rxdataAck,
    fun hlen href => ?rxdataNack⟩
  case slawAck =>
    have hsend := sendNext_error (s := s.emit (.statRead 0x18#8)) href
    have hrow := rowOf_slawAck_of_refused (s := s.emit (.statRead 0x18#8)) hlen hsend
    exact exec_event_raised (t := s.emit (.statRead 0x18#8)) rfl hready hrow rfl
  case txdataAck =>
    have hsend := sendNext_error (s := s.emit (.statRead 0x28#8)) (.inl hnone)
    have hrow := rowOf_txdataAck_of_refused (s := s.emit (.statRead 0x28#8)) hpos hsend
    exact exec_event_raised (t := s.emit (.statRead 0x28#8)) rfl hready hrow rfl
  case rxdataAck =>
    have hstore := storeNext_error (s := s.emit (.statRead 0x50#8)) (.inl hnone)
    have hrow := rowOf_rxdataAck_of_refused (s := s.emit (.statRead 0x50#8)) hpos hstore
    exact exec_event_raised (t := s.emit (.statRead 0x50#8)) rfl hready hrow rfl
  case rxdataNack =>
    have hstore := storeNext_error (s := (s.emit (.statRead 0x58#8)).setBusy false) href
    exact exec_event_raised rfl hready (rowOf_rxdataNack_of_refused hlen hstore) rfl

/-- Settles O9: with no byte to send the row ends the transaction; else it sends from the cursor, where the access is in
range, and faults where it is not. -/
theorem writeAddressAcknowledged : Obligations.WriteAddressAcknowledged := by
  intro s hready
  refine ⟨fun hlen => ?none, fun m hlen hm hpos => ?send, fun hlen hend => ?refused⟩
  case none =>
    have hrow := rowOf_slawAck_of_zero (s := s.emit (.statRead 0x18#8)) hlen
    exact exec_event_done rfl hready hrow rfl
  case send =>
    have hsend := sendNext_ok (s := s.emit (.statRead 0x18#8)) hpos hm
    exact exec_event_done rfl hready (rowOf_slawAck_of_sendNext hlen hsend) (List.append_assoc ..)
  case refused => exact (refusedAccessLatchesBufferBounds s hready).1 hlen (.inr hend)

/-- Settles O16: `busy` falls first; then, unless no byte was wanted, the row stores at the cursor, where the access is in
range, and faults where it is not. -/
theorem dataReceivedNotAcknowledged : Obligations.DataReceivedNotAcknowledged := by
  intro s hready
  refine ⟨fun hlen => ?none, fun m hpos hm => ?store, fun hlen hend => ?refused⟩
  case none =>
    have hrow := rowOf_rxdataNack_of_zero (s := s.emit (.statRead 0x58#8)) hlen
    exact exec_event_done rfl hready hrow rfl
  case store =>
    have hlen : s.record.inLength ≠ 0 := Nat.ne_zero_of_lt hpos
    have hstore := storeNext_ok (s := (s.emit (.statRead 0x58#8)).setBusy false) hpos hm
    exact exec_event_done rfl hready (rowOf_rxdataNack_of_storeNext hlen hstore) (List.append_assoc ..)
  case refused =>
    obtain ⟨-, -, -, hrefused⟩ := refusedAccessLatchesBufferBounds s hready
    exact hrefused hlen (.inr hend)

end Sys2Proof.Machine

/-! PROOFS. What every event keeps (R82 to R85, R35), and when none is a step (R80, R37 c). -/

namespace Sys2Proof.Machine

/-- Settles O22: the row has built its masks from the table of R69, and the frame applies and records them last. -/
theorem eventMasksAreDisjoint : Obligations.EventMasksAreDisjoint := by
  intro i s t hi h hfatal
  obtain ⟨-, code, -, ⟨u, set, clr, -, hmasks, hframe, rfl⟩ | ⟨u, f, -, -, rfl⟩⟩ := exec_event_cases hi h
  case inr => exact nomatch hfatal
  obtain ⟨hdisjoint, hclr, -, -⟩ := hmasks.bits
  obtain ⟨items, htrace, -⟩ := hframe.trace
  have hcon : u.con = s.con := hframe.con
  refine ⟨set, clr, by rw [hcon], ?order, hdisjoint, hclr, .statRead code :: items, by simp [htrace]⟩
  case order => rw [← hcon]; exact setThenClear_eq_clearThenSet hdisjoint

/-- Settles O23: the clear mask of a completed row holds bit 3; a raised fault applies no mask, and the event was enabled. -/
theorem eventStepClearsOrKeepsTheFlag : Obligations.EventStepClearsOrKeepsTheFlag := by
  intro i s t hi h
  obtain ⟨⟨-, hsi, hnone⟩, code, -, ⟨u, set, clr, -, hmasks, hframe, rfl⟩ | ⟨u, f, -, hframe, rfl⟩⟩ := exec_event_cases hi h
  case inl =>
    have hclr : clr.getLsbD 3 = true := by simpa using congrArg (·.getLsbD 3) hmasks.bits.2.1
    have hfatal : u.fatal = none := hframe.fatal.trans hnone
    exact ⟨fun _ => by simp [hclr], fun hne => absurd hfatal hne⟩
  case inr =>
    have hcon : u.con = s.con := hframe.con
    exact ⟨nofun, fun _ => ⟨hcon, hcon ▸ hsi⟩⟩

/-- Settles O24: the row's frame, the masks avoiding bits 0, 1, 6 and 7 of `CON`. -/
theorem eventsLeaveTheRestAlone : Obligations.EventsLeaveTheRestAlone := by
  intro i s t hi h
  obtain ⟨-, code, -, ⟨u, set, clr, -, hmasks, hframe, rfl⟩ | ⟨u, f, -, hframe, rfl⟩⟩ := exec_event_cases hi h
  case inl =>
    obtain ⟨-, -, hset, -⟩ := hmasks.bits
    obtain ⟨-, hclr, -⟩ := hmasks.untouched
    have hset' : set &&& 0xC3#8 = 0#8 := by
      calc set &&& 0xC3#8 = set &&& 0xCB#8 &&& 0xC3#8 := by rw [BitVec.and_assoc]; rfl
        _ = 0#8 := by rw [hset, BitVec.zero_and]
    have hcon : u.con = s.con := hframe.con
    exact ⟨hframe.address, hframe.dataOut, hframe.outLength, hframe.inLength, hframe.repeated, hframe.timeout, hframe.stat,
      hframe.datRx, hframe.divLo, hframe.divHi, hframe.handlerRegistered, hframe.host, hframe.ctrl, hframe.returned,
      hframe.agenda, hcon ▸ setThenClear_and_of_disjoint hset' hclr⟩
  case inr =>
    exact ⟨hframe.address, hframe.dataOut, hframe.outLength, hframe.inLength, hframe.repeated, hframe.timeout, hframe.stat,
      hframe.datRx, hframe.divLo, hframe.divHi, hframe.handlerRegistered, hframe.host, hframe.ctrl, hframe.returned,
      hframe.agenda, congrArg (· &&& 0xC3#8) hframe.con⟩

theorem RecordWrite.cursor {i : Instr} {rx : Byte} {r r' : TransactionRecord} (h : RecordWrite i rx r r') :
    r'.position = r.position ∨ r'.position = r.position + 1 ∨ r'.position = 0 := by
  cases h with
  | flags => exact .inl rfl
  | rewound => exact .inr (.inr rfl)
  | sent | stored => exact .inr (.inl rfl)

theorem RecordWrite.operation {i : Instr} {rx : Byte} {r r' : TransactionRecord} (h : RecordWrite i rx r r') :
    r'.operation = r.operation ∨ r'.operation = .read := by
  cases h with
  | flags _ _ _ hop => exact hop
  | rewound => exact .inr rfl
  | sent | stored => exact .inl rfl

theorem RecordWrite.busy {i : Instr} {rx : Byte} {r r' : TransactionRecord} (h : RecordWrite i rx r r') :
    r'.busy = r.busy ∨ r'.busy = false := by
  cases h with
  | flags _ _ _ _ hbusy | stored _ _ _ hbusy => exact hbusy
  | rewound | sent => exact .inl rfl

theorem RecordWrite.dataIn {i : Instr} {rx : Byte} {r r' : TransactionRecord} (h : RecordWrite i rx r r') :
    r'.dataIn = r.dataIn ∨ ((i = .rxdataAck ∨ i = .rxdataNack) ∧ r'.dataIn ≠ none) := by
  cases h with
  | flags | rewound | sent => exact .inl rfl
  | stored _ _ hi => exact .inr ⟨hi, nofun⟩

/-- Settles O25: each write a row can make moves the phase, the cursor and `busy` so. -/
theorem eventsMoveTheCursorForward : Obligations.EventsMoveTheCursorForward := by
  intro i s t hi h
  have hwrite := exec_event_recordWrite hi h
  exact ⟨hwrite.operation, hwrite.cursor, hwrite.busy⟩

/-- Settles O27: an event writes neither `data_out` nor a length, and `data_in` only by storing; of the host's micro-steps
only the install of a submission writes them. -/
theorem otherInstructionsStoreNothing : Obligations.OtherInstructionsStoreNothing := by
  intro i s t h hnot
  cases hi : i.isEvent
  case true =>
    obtain ⟨-, hout, houtLen, hinLen, -⟩ := eventsLeaveTheRestAlone i s t hi h
    refine ⟨hout, houtLen, hinLen, fun hack hnack => ?_⟩
    obtain hin | ⟨hstores, -⟩ := (exec_event_recordWrite hi h).dataIn
    · exact hin
    · exact absurd hstores (not_or.mpr ⟨hack, hnack⟩)
  case false =>
    obtain ⟨-, heffect⟩ := exec_host_cases hi h
    obtain hrec | hrec | ⟨u, hu, -, -⟩ := heffect.record_cases
    · rw [hrec]; exact ⟨rfl, rfl, rfl, fun _ _ => rfl⟩
    · rw [hrec]; exact ⟨rfl, rfl, rfl, fun _ _ => rfl⟩
    · exact absurd hu (hnot u)

/-- Whether the row's clear mask holds bit 5, `STA` (R29). -/
def RowResult.clearsStart : RowResult → Bool
  | .done _ _ clr => clr.getLsbD 5
  | .raised _ _ => false

theorem lookAhead_clearsStart (s : State) : (lookAhead s).clearsStart = false := by
  unfold lookAhead
  split <;> rfl

/-- Only the rows of the four address results clear `STA`. -/
theorem rowOf_clearsStart {i : Instr} {s : State} (h : (rowOf i s).clearsStart = true) :
    i = .slawAck ∨ i = .slawNack ∨ i = .slarAck ∨ i = .slarNack := by
  cases i with
  | slawAck => exact .inl rfl
  | slawNack => exact .inr (.inl rfl)
  | slarAck => exact .inr (.inr (.inl rfl))
  | slarNack => exact .inr (.inr (.inr rfl))
  | busError | start | repStart | txdataNack | arbLost | slaveAddr | noState | unknown
  | initialise | isInitialized | submitTransaction | wait | timeoutAbort | returnStatus => exact nomatch h
  | txdataAck =>
    have hkeeps : (rowOf .txdataAck s).clearsStart = false := by
      simp only [rowOf, rowTxdataAck]
      split
      · split <;> rfl
      · split <;> rfl
    exact nomatch hkeeps.symm.trans h
  | rxdataAck =>
    have hkeeps : (rowOf .rxdataAck s).clearsStart = false := by
      simp only [rowOf, rowRxdataAck]
      split
      · split
        · exact lookAhead_clearsStart _
        · rfl
      · exact lookAhead_clearsStart s
    exact nomatch hkeeps.symm.trans h
  | rxdataNack =>
    have hkeeps : (rowOf .rxdataNack s).clearsStart = false := by
      simp only [rowOf, rowRxdataNack]
      split
      · split <;> rfl
      · rfl
    exact nomatch hkeeps.symm.trans h

/-- Settles O49: a bit that falls is in the row's clear mask. -/
theorem startIsClearedByAddressResults : Obligations.StartIsClearedByAddressResults := by
  intro i s t hi h hset hfell
  obtain ⟨-, code, -, ⟨u, set, clr, hrow, -, hframe, rfl⟩ | ⟨u, f, -, hframe, rfl⟩⟩ := exec_event_cases hi h
  all_goals have hcon : u.con = s.con := hframe.con
  case inl =>
    have hclr : clr.getLsbD 5 = true := by simpa [hcon, hset] using hfell
    exact rowOf_clearsStart (s := s.emit (.statRead code)) (by rw [hrow]; exact hclr)
  case inr => exact absurd hset (by simpa [hcon] using hfell)

theorem eventStep_fault {s : State} {f : Fault} (h : s.fatal = some f) (code : Byte) (row : State → RowResult) :
    eventStep code row s = .fault f := by
  rw [eventStep, h]

theorem hostStep_fault {s : State} {f : Fault} (h : s.fatal = some f)
    (body : State → Host.Outcome State Fault Refusal) : hostStep body s = .fault f := by
  rw [hostStep, h]

/-- Settles O20: the step, the frame of an event and the frame of a host micro-step each test the latch first. -/
theorem latchedFaultStopsEveryStep : Obligations.LatchedFaultStopsEveryStep := by
  intro s f hf
  refine ⟨by rw [step, hf], fun i => ?_⟩
  cases i with
  | initialise => rw [exec, execInitialise, hostStep_fault hf]
  | isInitialized => rw [exec, execIsInitialized, hostStep_fault hf]
  | submitTransaction => rw [exec, execSubmitTransaction, hostStep_fault hf]
  | wait => rw [exec, execWait, hostStep_fault hf]
  | timeoutAbort => rw [exec, execTimeoutAbort, hostStep_fault hf]
  | returnStatus => rw [exec, execReturnStatus, hostStep_fault hf]
  | _ => exact eventStep_fault hf _ _

/-- Settles O21: an event that is not enabled is refused. -/
theorem disabledEventIsRefused : Obligations.DisabledEventIsRefused := by
  intro s i hi hf hdisabled
  obtain ⟨code, hcode⟩ := Option.isSome_iff_exists.mp hi
  rw [exec_event hcode]
  obtain ⟨⟨hreg, hsi, -⟩, -⟩ | ⟨f, hf', -⟩ | ⟨-, -, hrefused⟩ := eventStep_cases s code (rowOf i)
  · exact absurd hdisabled (by simp [hreg, hsi])
  · exact nomatch hf.symm.trans hf'
  · exact hrefused

end Sys2Proof.Machine

/-! PROOFS. A calm run never faults (R48, R160): the invariant `State.Undisturbed`, one lemma per position of the
controller, and then what each agent's turn makes of it. -/

namespace Sys2Proof.Machine

/-! ### The invariant by the controller's position -/

/-- The part of `State.Undisturbed` that does not speak of the controller. -/
structure State.Sound (s : State) : Prop where
  noFault : s.fatal = none
  outBound : s.record.dataOut ≠ none
  inBound : s.record.dataIn ≠ none
  startAtZero : s.sta = true → s.record.position = 0

theorem State.Undisturbed.sound {s : State} (h : s.Undisturbed) : s.Sound :=
  ⟨h.noFault, h.outBound, h.inBound, h.startAtZero⟩

theorem undisturbed_of_idle {s : State} (h : s.Sound) (hc : s.ctrl = .idle) (hsi : s.si = false) : s.Undisturbed where
  noFault := h.noFault
  outBound := h.outBound
  inBound := h.inBound
  startAtZero := h.startAtZero
  idleQuiet _ := hsi
  starting := by simp [hc]
  reportedNamed := by simp [hc]
  pending := by simp [hc]
  dataNoStart := by simp [hc]
  addressPhase := by simp [hc]
  slawPending := by simp [hc]
  slarPhase := by simp [hc]
  rxPending := by simp [hc]
  rxServed := by simp [hc]
  lastPending := by simp [hc]
  acting := by simp [hc]
  addressActing := by simp [hc]
  slarActing := by simp [hc]
  rxActing := by simp [hc]

theorem undisturbed_of_starting {s : State} (h : s.Sound) (hc : s.ctrl = .starting) (hsi : s.si = false)
    (hzero : s.record.position = 0) : s.Undisturbed where
  noFault := h.noFault
  outBound := h.outBound
  inBound := h.inBound
  startAtZero := h.startAtZero
  idleQuiet _ := hsi
  starting _ := ⟨hsi, hzero⟩
  reportedNamed := by simp [hc]
  pending := by simp [hc]
  dataNoStart := by simp [hc]
  addressPhase := by simp [hc]
  slawPending := by simp [hc]
  slarPhase := by simp [hc]
  rxPending := by simp [hc]
  rxServed := by simp [hc]
  lastPending := by simp [hc]
  acting := by simp [hc]
  addressActing := by simp [hc]
  slarActing := by simp [hc]
  rxActing := by simp [hc]

/-- What a raise of this code finds: a data event no requested start, an address event the cursor at 0, a byte received
its room. -/
structure RaisedInOrder (s : State) (code : Byte) : Prop where
  dataNoStart : code = 0x28#8 ∨ code = 0x50#8 ∨ code = 0x58#8 → s.sta = false
  atZero : code = 0x08#8 ∨ code = 0x10#8 ∨ code = 0x18#8 ∨ code = 0x40#8 → s.record.position = 0
  rxRoom : code = 0x50#8 → s.record.position + 1 < s.record.inLength
  lastRoom : code = 0x58#8 → s.record.inLength ≠ 0 → s.record.position < s.record.inLength

theorem undisturbed_of_pending {s : State} {c : Byte} (h : s.Sound) (hc : s.ctrl = .reported c) (hsi : s.si = true)
    (hstat : s.stat = c) (hnamed : namedCodes.contains c = true) (hlost : c ≠ 0x38#8) (horder : RaisedInOrder s c) :
    s.Undisturbed where
  noFault := h.noFault
  outBound := h.outBound
  inBound := h.inBound
  startAtZero := h.startAtZero
  idleQuiet := by simp [hc]
  starting := by simp [hc]
  reportedNamed c' hc' := by
    obtain rfl := CtrlPoint.reported.inj (hc.symm.trans hc')
    exact ⟨hnamed, hlost⟩
  pending c' hc' _ := by
    obtain rfl := CtrlPoint.reported.inj (hc.symm.trans hc')
    exact hstat
  dataNoStart c' hc' _ := by
    obtain rfl := CtrlPoint.reported.inj (hc.symm.trans hc')
    exact horder.dataNoStart
  addressPhase hc' := by
    simp only [hc, CtrlPoint.reported.injEq] at hc'
    exact horder.atZero (hc'.elim .inl (.inr ∘ .inl))
  slawPending hc' _ := horder.atZero (.inr (.inr (.inl (CtrlPoint.reported.inj (hc.symm.trans hc')))))
  slarPhase hc' :=
    ⟨horder.atZero (.inr (.inr (.inr (CtrlPoint.reported.inj (hc.symm.trans hc'))))),
      fun hserved => by simp [hsi] at hserved⟩
  rxPending hc' _ := horder.rxRoom (CtrlPoint.reported.inj (hc.symm.trans hc'))
  rxServed _ hserved := by simp [hsi] at hserved
  lastPending hc' _ := horder.lastRoom (CtrlPoint.reported.inj (hc.symm.trans hc'))
  acting := by simp [hc]
  addressActing := by simp [hc]
  slarActing := by simp [hc]
  rxActing := by simp [hc]

/-- What serving this code leaves: no fault, a start requested at cursor 0 alone, the address phase at cursor 0, and the
acknowledge armed only where bytes are to come for it. -/
structure ServedInOrder (s : State) (code : Byte) : Prop where
  noFault : s.fatal = none
  startAtZero : s.sta = true → s.record.position = 0
  address : code = 0x08#8 ∨ code = 0x10#8 → s.record.position = 0
  slar : code = 0x40#8 → s.record.position = 0 ∧ (s.sto = false → s.aa = true → 2 ≤ s.record.inLength)
  rx : code = 0x50#8 → s.record.position < s.record.inLength ∧ (s.aa = true → s.record.position + 1 < s.record.inLength)

theorem undisturbed_of_served {s : State} {c : Byte} (hc : s.ctrl = .reported c) (hsi : s.si = false)
    (hout : s.record.dataOut ≠ none) (hin : s.record.dataIn ≠ none)
    (hnamed : namedCodes.contains c = true) (hlost : c ≠ 0x38#8) (horder : ServedInOrder s c) : s.Undisturbed where
  noFault := horder.noFault
  outBound := hout
  inBound := hin
  startAtZero := horder.startAtZero
  idleQuiet _ := hsi
  starting := by simp [hc]
  reportedNamed c' hc' := by
    obtain rfl := CtrlPoint.reported.inj (hc.symm.trans hc')
    exact ⟨hnamed, hlost⟩
  pending := by simp [hsi]
  dataNoStart := by simp [hsi]
  addressPhase hc' := by
    simp only [hc, CtrlPoint.reported.injEq] at hc'
    exact horder.address hc'
  slawPending := by simp [hsi]
  slarPhase hc' := by
    obtain ⟨hzero, harmed⟩ := horder.slar (CtrlPoint.reported.inj (hc.symm.trans hc'))
    exact ⟨hzero, fun _ => harmed⟩
  rxPending := by simp [hsi]
  rxServed hc' _ := horder.rx (CtrlPoint.reported.inj (hc.symm.trans hc'))
  lastPending := by simp [hsi]
  acting := by simp [hc]
  addressActing := by simp [hc]
  slarActing := by simp [hc]
  rxActing := by simp [hc]

/-! ### The foreground's turn -/

/-- What a calm turn of the foreground leaves: of the record all but the status, of the control bits no new start or
acknowledge and no stop withdrawn. -/
structure CalmFrame (s t : State) : Prop where
  fatal : t.fatal = s.fatal
  stat : t.stat = s.stat
  ctrl : t.ctrl = s.ctrl
  record : ∃ st, t.record = { s.record with status := st }
  si : t.si = s.si
  sta : t.sta = true → s.sta = true
  sto : t.sto = false → s.sto = false
  aa : t.aa = true → s.aa = true

theorem CalmFrame.of_eq {s t : State} (hfatal : t.fatal = s.fatal) (hstat : t.stat = s.stat) (hctrl : t.ctrl = s.ctrl)
    (hrecord : t.record = s.record) (hcon : t.con = s.con) : CalmFrame s t where
  fatal := hfatal
  stat := hstat
  ctrl := hctrl
  record := ⟨s.record.status, hrecord⟩
  si := by rw [State.si, hcon, State.si]
  sta := by rw [State.sta, hcon]; exact id
  sto := by rw [State.sto, hcon]; exact id
  aa := by rw [State.aa, hcon]; exact id

theorem State.Undisturbed.of_calmFrame {s t : State} (h : s.Undisturbed) (hframe : CalmFrame s t) : t.Undisturbed := by
  obtain ⟨hfatal, hstat, hctrl, ⟨st, hrec⟩, hsi, hsta, hsto, haa⟩ := hframe
  have hsta' : s.sta = false → t.sta = false := fun hs =>
    Bool.eq_false_iff.mpr fun ht => Bool.eq_false_iff.mp hs (hsta ht)
  constructor <;> simp only [hfatal, hstat, hctrl, hrec, hsi]
  case noFault => exact h.noFault
  case outBound => exact h.outBound
  case inBound => exact h.inBound
  case startAtZero => exact fun ht => h.startAtZero (hsta ht)
  case idleQuiet => exact h.idleQuiet
  case starting => exact h.starting
  case reportedNamed => exact h.reportedNamed
  case pending => exact h.pending
  case dataNoStart => exact fun c hc hp hdata => hsta' (h.dataNoStart c hc hp hdata)
  case addressPhase => exact h.addressPhase
  case slawPending => exact h.slawPending
  case slarPhase =>
    intro hc
    obtain ⟨hzero, harmed⟩ := h.slarPhase hc
    exact ⟨hzero, fun hp hs ha => harmed hp (hsto hs) (haa ha)⟩
  case rxPending => exact h.rxPending
  case rxServed =>
    intro hc hp
    obtain ⟨hroom, harmed⟩ := h.rxServed hc hp
    exact ⟨hroom, fun ha => harmed (haa ha)⟩
  case lastPending => exact h.lastPending
  case acting =>
    intro c con dat hc
    obtain ⟨hp, hlost, hstart, hzero⟩ := h.acting c con dat hc
    exact ⟨hp, hlost, fun ht => hstart (hsta ht), hzero⟩
  case addressActing => exact h.addressActing
  case slarActing => exact h.slarActing
  case rxActing => exact h.rxActing

/-- The foreground's commands of a calm run: all but a new submission and `Initialize`. -/
theorem calmFrame_of_hostEffect {i : Instr} {s t : State} (hcalm : calmTurn s (.host i) = true) (h : HostEffect i s t) :
    CalmFrame s t := by
  cases h with
  | i1Ok | i1Fail | i2Ok | i2Fail | i3 | i4 | i5 | i6Ok | i6Fail | s1Ok | s1Fault | s2 | s3 => exact nomatch hcalm
  | query | waitOver | waitAbort | waitOn | a4Warn | a4Quiet | f2 => exact .of_eq rfl rfl rfl rfl rfl
  | a3 => exact ⟨rfl, rfl, rfl, ⟨.timedOut, rfl⟩, rfl, id, id, id⟩
  | a1 | a2 | f1 =>
    exact ⟨rfl, rfl, rfl, ⟨_, rfl⟩, by simp [State.si], by simp [State.sta], by simp [State.sto], by simp [State.aa]⟩

/-! ### The controller's turn -/

theorem raisedInOrder_of_other {s : State} {code : Byte}
    (h : code ∉ [0x08#8, 0x10#8, 0x18#8, 0x28#8, 0x40#8, 0x50#8, 0x58#8]) : RaisedInOrder s code := by
  simp only [List.mem_cons, List.not_mem_nil, or_false, not_or] at h
  constructor <;> simp [h]

/-- An event other than a data event is in order at cursor 0. -/
theorem raisedInOrder_of_zero {s : State} {code : Byte} (hzero : s.record.position = 0)
    (h : code ∉ [0x28#8, 0x50#8, 0x58#8]) : RaisedInOrder s code := by
  simp only [List.mem_cons, List.not_mem_nil, or_false, not_or] at h
  constructor <;> simp [h, hzero]

/-- An event that speaks of no cursor and stores nothing is in order with no start requested. -/
theorem raisedInOrder_of_noStart {s : State} {code : Byte} (hsta : s.sta = false)
    (h : code ∉ [0x08#8, 0x10#8, 0x18#8, 0x40#8, 0x50#8, 0x58#8]) : RaisedInOrder s code := by
  simp only [List.mem_cons, List.not_mem_nil, or_false, not_or] at h
  constructor <;> simp [h, hsta]

/-- A named slave code is 0xA0 (R160). -/
theorem eq_of_slaveCode {code : Byte} (h : slaveCode code = true) (hnamed : namedCodes.contains code = true) :
    code = 0xA0#8 := by
  rw [slaveCode, hnamed, Bool.not_true, Bool.or_false] at h
  exact eq_of_beq h

/-- The rows of R160's table whose code has a name and loses no arbitration: `c` was reported, `con` seen, `code` follows. -/
inductive CalmRow (c con code : Byte) : Prop where
  | addressResult (hc : c = 0x08#8 ∨ c = 0x10#8) (hcode : code ∈ [0x18#8, 0x20#8, 0x40#8, 0x48#8])
  | restart (hstart : con.getLsbD 5 = true) (hcode : code = 0x10#8)
  | sent (hstart : con.getLsbD 5 = false) (hcode : code ∈ [0x28#8, 0x30#8])
  | received (hstart : con.getLsbD 5 = false) (hstop : con.getLsbD 4 = false) (hack : con.getLsbD 2 = true)
      (hc : c = 0x40#8 ∨ c = 0x50#8) (hcode : code = 0x50#8)
  | lastReceived (hstart : con.getLsbD 5 = false) (hc : c = 0x40#8 ∨ c = 0x50#8) (hcode : code = 0x58#8)
  | slave (hcode : code = 0xA0#8)

theorem calmRow_of_raisesNext {c con dat code : Byte} (h : raisesNext c con dat code = true) (hc : c ≠ 0x38#8)
    (hnamed : namedCodes.contains code = true) (hlost : code ≠ 0x38#8) : CalmRow c con code := by
  unfold raisesNext at h
  split at h
  case isTrue haddress =>
    refine .addressResult haddress ?_
    simp only [Bool.and_eq_true, Bool.or_eq_true, beq_iff_eq, hlost, false_or] at h
    obtain ⟨-, h⟩ := h
    split at h <;> simp at h <;> obtain rfl | rfl := h <;> simp
  split at h
  case isTrue =>
    simp only [Bool.and_eq_true] at h
    obtain ⟨-, h⟩ := h
    split at h
    case isTrue h5 => exact .restart h5 (eq_of_beq h)
    case isFalse h5 =>
      exact .sent (Bool.eq_false_iff.mpr h5) (by simpa [hlost] using h)
  split at h
  case isTrue hreceived =>
    simp only [Bool.and_eq_true, Bool.not_eq_true'] at h
    obtain ⟨h4, h⟩ := h
    split at h
    case isTrue h5 => exact .restart h5 (eq_of_beq h)
    case isFalse h5 =>
      have h5 := Bool.eq_false_iff.mpr h5
      split at h
      case isTrue h2 => exact .received h5 h4 h2 hreceived (eq_of_beq h)
      case isFalse => exact .lastReceived h5 hreceived (eq_of_beq h)
  obtain ⟨-, hslave⟩ := Bool.and_eq_true_iff.mp h
  exact .slave (eq_of_slaveCode hslave hnamed)

/-- The code a calm controller raises while it acts is in order. -/
theorem raisedInOrder_of_acting {s : State} {c con dat code : Byte} (h : s.Undisturbed) (hc : s.ctrl = .acting c con dat)
    (hraises : raisesNext c con dat code = true) (hnamed : namedCodes.contains code = true) (hlost : code ≠ 0x38#8) :
    RaisedInOrder s code := by
  obtain ⟨-, hc38, hstart, hzero⟩ := h.acting c con dat hc
  have hnoStart : con.getLsbD 5 = false → s.sta = false := fun h5 =>
    Bool.eq_false_iff.mpr fun hs => Bool.eq_false_iff.mp h5 (hstart hs)
  cases calmRow_of_raisesNext hraises hc38 hnamed hlost with
  | addressResult hc' hcode =>
    exact raisedInOrder_of_zero (h.addressActing c con dat hc hc') (by fin_cases hcode <;> decide)
  | restart h5 hcode => exact raisedInOrder_of_zero (hzero h5) (by simp [hcode])
  | sent h5 hcode => exact raisedInOrder_of_noStart (hnoStart h5) (by fin_cases hcode <;> decide)
  | received h5 h4 h2 hc' hcode =>
    subst hcode
    refine ⟨fun _ => hnoStart h5, by simp, fun _ => ?_, by simp⟩
    obtain rfl | rfl := hc'
    · obtain ⟨hpos, harmed⟩ := h.slarActing con dat hc
      exact hpos ▸ harmed h4 h2
    · exact (h.rxActing con dat hc).2 h2
  | lastReceived h5 hc' hcode =>
    subst hcode
    refine ⟨fun _ => hnoStart h5, by simp, by simp, fun _ hlen => ?_⟩
    obtain rfl | rfl := hc'
    · rw [(h.slarActing con dat hc).1]
      exact Nat.pos_of_ne_zero hlen
    · exact (h.rxActing con dat hc).1
  | slave hcode => exact raisedInOrder_of_other (by simp [hcode])

/-- So is every code a calm controller raises. -/
theorem raisedInOrder_of_conformantRaise {s : State} {code : Byte} (h : s.Undisturbed)
    (hraise : conformantRaise s code = true) (hnamed : namedCodes.contains code = true) (hlost : code ≠ 0x38#8) :
    RaisedInOrder s code := by
  unfold conformantRaise at hraise
  obtain herror | hraise := Bool.or_eq_true_iff.mp hraise
  · exact raisedInOrder_of_other (by simp [eq_of_beq herror])
  split at hraise
  · obtain ⟨-, hslave⟩ := Bool.and_eq_true_iff.mp hraise
    exact raisedInOrder_of_other (by simp [eq_of_slaveCode hslave hnamed])
  · next hc => exact raisedInOrder_of_zero (h.starting hc).2 (by simp [eq_of_beq hraise])
  · exact nomatch hraise
  · next hc => exact raisedInOrder_of_acting h hc hraise hnamed hlost

theorem undisturbed_of_raise {s : State} {code rx : Byte} (h : s.Undisturbed) (hnamed : namedCodes.contains code = true)
    (hlost : code ≠ 0x38#8) (horder : RaisedInOrder s code) :
    State.Undisturbed { s with stat := code, datRx := rx, con := s.con ||| 0x08#8, ctrl := .reported code } := by
  have hsta : State.sta { s with stat := code, datRx := rx, con := s.con ||| 0x08#8, ctrl := .reported code } = s.sta := by
    simp [State.sta]
  refine undisturbed_of_pending ⟨h.noFault, h.outBound, h.inBound, fun ht => h.startAtZero (hsta ▸ ht)⟩ rfl
    (by simp [State.si]) rfl hnamed hlost ⟨fun hdata => ?_, horder.atZero, horder.rxRoom, horder.lastRoom⟩
  rw [hsta]
  exact horder.dataNoStart hdata

/-- Once the event is served, a look takes the controller from what it reported to the values it acts on. -/
theorem undisturbed_of_looked {s : State} {c : Byte} (h : s.Undisturbed) (hc : s.ctrl = .reported c)
    (hsi : s.si = false) : State.Undisturbed { s with ctrl := .acting c s.con s.datTx } where
  noFault := h.noFault
  outBound := h.outBound
  inBound := h.inBound
  startAtZero := h.startAtZero
  idleQuiet := nofun
  starting := nofun
  reportedNamed := nofun
  pending := nofun
  dataNoStart := nofun
  addressPhase := nofun
  slawPending := nofun
  slarPhase := nofun
  rxPending := nofun
  rxServed := nofun
  lastPending := nofun
  acting c' con dat hc' := by
    obtain ⟨rfl, rfl, rfl⟩ := CtrlPoint.acting.inj hc'
    exact ⟨hsi, (h.reportedNamed c hc).2, id, h.startAtZero⟩
  addressActing c' con dat hc' haddress := by
    obtain ⟨rfl, rfl, rfl⟩ := CtrlPoint.acting.inj hc'
    exact h.addressPhase (haddress.imp (hc.trans ∘ congrArg _) (hc.trans ∘ congrArg _))
  slarActing con dat hc' := by
    obtain ⟨rfl, rfl, rfl⟩ := CtrlPoint.acting.inj hc'
    obtain ⟨hzero, harmed⟩ := h.slarPhase hc
    exact ⟨hzero, harmed hsi⟩
  rxActing con dat hc' := by
    obtain ⟨rfl, rfl, rfl⟩ := CtrlPoint.acting.inj hc'
    exact h.rxServed hc hsi

/-- A state whose control bits other than `STO` are those of a sound one is sound. -/
theorem State.Sound.stopCleared {s : State} (h : s.Sound) (p : CtrlPoint) :
    State.Sound { s with con := s.con &&& ~~~0x10#8, ctrl := p } :=
  ⟨h.noFault, h.outBound, h.inBound, fun ht => h.startAtZero (by simpa [State.sta] using ht)⟩

/-- A conformant controller acts only once `SI` has fallen (R160). -/
theorem si_of_conformantAct {s : State} {a : CtrlAct} (h : conformantAct s a = true) : s.si = false := by
  unfold conformantAct at h
  simpa using (Bool.and_eq_true_iff.mp h).1

/-- It stops and starts only where it acts on a start requested when it looked (U10). -/
theorem acting_of_stopThenStart {s : State} (h : conformantAct s .stopThenStart = true) :
    ∃ c con dat, s.ctrl = .acting c con dat ∧ con.getLsbD 5 = true := by
  unfold conformantAct at h
  obtain ⟨-, h⟩ := Bool.and_eq_true_iff.mp h
  simp only at h
  split at h
  · next c con dat hc => exact ⟨c, con, dat, hc, (Bool.and_eq_true_iff.mp h).2⟩
  all_goals exact nomatch h

/-- It starts from idle only where a start is requested (R160). -/
theorem sta_of_look {s : State} (h : conformantAct s .look = true) (hc : s.ctrl = .idle) : s.sta = true := by
  unfold conformantAct at h
  obtain ⟨-, h⟩ := Bool.and_eq_true_iff.mp h
  simp only [hc, bne_self_eq_false, Bool.false_or] at h
  exact (Bool.and_eq_true_iff.mp h).1

theorem undisturbed_of_look {s : State} (h : s.Undisturbed) (hact : conformantAct s .look = true) :
    State.Undisturbed { s with ctrl := s.lookedAt } := by
  have hsi := si_of_conformantAct hact
  rcases hc : s.ctrl with _ | _ | c | ⟨c, con, dat⟩
  case idle =>
    have hlooked : s.lookedAt = .starting := by rw [State.lookedAt, hc]
    have hsound : State.Sound { s with ctrl := s.lookedAt } := { h.sound with }
    exact undisturbed_of_starting hsound hlooked hsi (h.startAtZero (sta_of_look hact hc))
  case reported =>
    have hlooked : s.lookedAt = .acting c s.con s.datTx := by rw [State.lookedAt, hc]
    rw [hlooked]
    exact undisturbed_of_looked h hc hsi
  case starting =>
    have hlooked : s.lookedAt = s.ctrl := by rw [State.lookedAt, hc]
    rw [hlooked]
    exact h
  case acting =>
    have hlooked : s.lookedAt = s.ctrl := by rw [State.lookedAt, hc]
    rw [hlooked]
    exact h

theorem undisturbed_of_ctrlStep {a : CtrlAct} {s t : State} (h : s.Undisturbed) (hcalm : calmTurn s (.ctrl a) = true)
    (hstep : ctrlStep a s = .next t) : t.Undisturbed := by
  obtain ⟨code, rx, rfl, -, rfl⟩ | ⟨rfl, rfl⟩ | ⟨rfl, rfl⟩ | ⟨rfl, rfl⟩ | ⟨rfl, rfl⟩ := ctrlStep_cases hstep
  · obtain ⟨hcalm, hnamed⟩ := Bool.and_eq_true_iff.mp hcalm
    obtain ⟨hact, hlost⟩ := Bool.and_eq_true_iff.mp hcalm
    obtain ⟨-, hraise⟩ := Bool.and_eq_true_iff.mp hact
    have hlost := bne_iff_ne.mp hlost
    exact undisturbed_of_raise h hnamed hlost (raisedInOrder_of_conformantRaise h hraise hnamed hlost)
  · exact undisturbed_of_look h hcalm
  · have hsi := si_of_conformantAct (a := .finishStop) hcalm
    exact undisturbed_of_idle (h.sound.stopCleared _) rfl (by simpa [State.si] using hsi)
  · have hsi := si_of_conformantAct (a := .stopThenStart) hcalm
    obtain ⟨c, con, dat, hc, hstart⟩ := acting_of_stopThenStart hcalm
    obtain ⟨-, -, -, hzero⟩ := h.acting c con dat hc
    exact undisturbed_of_starting (h.sound.stopCleared _) rfl (by simpa [State.si] using hsi) (hzero hstart)
  · have hsi := si_of_conformantAct (a := .goIdle) hcalm
    exact undisturbed_of_idle { h.sound with } rfl hsi

/-! ### The interrupt context's turn -/

theorem EventReady.pending {s : State} (h : EventReady s) : s.con.getLsbD 3 = true := h.2.1

theorem EventReady.noFault {s : State} (h : EventReady s) : s.fatal = none := h.2.2

/-- An event that leaves the cursor, requests no start and is no acknowledged receive event is served in order. -/
theorem servedInOrder_of_kept {s t : State} {c : Byte} (h : s.Undisturbed) (hc : s.ctrl = .reported c)
    (hcode : c ∉ [0x40#8, 0x50#8]) (hfatal : t.fatal = none) (hpos : t.record.position = s.record.position)
    (hsta : t.sta = true → s.sta = true) : ServedInOrder t c where
  noFault := hfatal
  startAtZero ht := hpos.trans (h.startAtZero (hsta ht))
  address haddress := hpos.trans (h.addressPhase (haddress.imp (hc.trans ∘ congrArg _) (hc.trans ∘ congrArg _)))
  slar h40 := absurd h40 (fun e => hcode (by simp [e]))
  rx h50 := absurd h50 (fun e => hcode (by simp [e]))

/-- Of the events that are neither an address phase nor received, only the start they request matters. -/
theorem servedInOrder_of_start {t : State} {c : Byte} (hcode : c ∉ [0x08#8, 0x10#8, 0x40#8, 0x50#8])
    (hfatal : t.fatal = none) (hstart : t.sta = true → t.record.position = 0) : ServedInOrder t c := by
  simp only [List.mem_cons, List.not_mem_nil, or_false, not_or] at hcode
  refine ⟨hfatal, hstart, ?_, ?_, ?_⟩ <;> simp [hcode]

/-- Two next states of one instruction are one. -/
theorem next_unique {i : Instr} {s t u : State} (ht : exec i s = .next t) (hu : exec i s = .next u) : t = u :=
  Host.Outcome.next.inj (ht.symm.trans hu)

theorem servedInOrder_slawAck {s t : State} (h : s.Undisturbed) (hready : EventReady s) (hc : s.ctrl = .reported 0x18#8)
    (hexec : exec .slawAck s = .next t) : ServedInOrder t 0x18#8 := by
  have hsi : s.con.getLsbD 3 = true := hready.pending
  have hfatal : s.fatal = none := hready.noFault
  obtain ⟨m, hm⟩ := Option.ne_none_iff_exists'.mp h.outBound
  have hzero : s.record.position = 0 := h.slawPending hc hsi
  obtain ⟨hnone, hsend, -⟩ := writeAddressAcknowledged s hready
  by_cases hlen : s.record.outLength = 0
  · obtain rfl := next_unique (hnone hlen) hexec
    exact servedInOrder_of_start (by decide) hfatal (by simp [State.sta, afterEvent])
  · obtain rfl := next_unique (hsend m hlen hm (hzero ▸ Nat.pos_of_ne_zero hlen)) hexec
    exact servedInOrder_of_start (by decide) hfatal (by simp [State.sta, afterEvent])

theorem servedInOrder_txdataAck {s t : State} (h : s.Undisturbed) (hready : EventReady s)
    (hc : s.ctrl = .reported 0x28#8) (hexec : exec .txdataAck s = .next t) : ServedInOrder t 0x28#8 := by
  have hsi : s.con.getLsbD 3 = true := hready.pending
  have hfatal : s.fatal = none := hready.noFault
  obtain ⟨m, hm⟩ := Option.ne_none_iff_exists'.mp h.outBound
  have hsta : s.con[5] = false := h.dataNoStart _ hc hsi (.inl rfl)
  obtain ⟨hswitch, hfinish, hsend⟩ := dataSentAcknowledged s hready
  obtain hend | hpos := le_or_gt s.record.outLength s.record.position
  · cases hrep : s.record.repeated
    · obtain rfl := next_unique (hfinish hend hrep) hexec
      exact servedInOrder_of_start (by decide) hfatal (by simp [State.sta, afterEvent, hsta])
    · obtain rfl := next_unique (hswitch hend hrep) hexec
      exact servedInOrder_of_start (by decide) hfatal (fun _ => rfl)
  · obtain rfl := next_unique (hsend m hpos hm) hexec
    exact servedInOrder_of_start (by decide) hfatal (by simp [State.sta, afterEvent, hsta])

theorem servedInOrder_rxdataNack {s t : State} (h : s.Undisturbed) (hready : EventReady s)
    (hc : s.ctrl = .reported 0x58#8) (hexec : exec .rxdataNack s = .next t) : ServedInOrder t 0x58#8 := by
  have hsi : s.con.getLsbD 3 = true := hready.pending
  have hfatal : s.fatal = none := hready.noFault
  obtain ⟨m, hm⟩ := Option.ne_none_iff_exists'.mp h.inBound
  have hsta : s.con[5] = false := h.dataNoStart _ hc hsi (.inr (.inr rfl))
  obtain ⟨hnone, hstore, -⟩ := dataReceivedNotAcknowledged s hready
  by_cases hlen : s.record.inLength = 0
  · obtain rfl := next_unique (hnone hlen) hexec
    exact servedInOrder_of_start (by decide) hfatal (by simp [State.sta, afterEvent, hsta])
  · obtain rfl := next_unique (hstore m (h.lastPending hc hsi hlen) hm) hexec
    exact servedInOrder_of_start (by decide) hfatal (by simp [State.sta, afterEvent, hsta])

theorem servedInOrder_slarAck {s t : State} (h : s.Undisturbed) (hready : EventReady s) (hc : s.ctrl = .reported 0x40#8)
    (hexec : exec .slarAck s = .next t) : ServedInOrder t 0x40#8 := by
  have hfatal : s.fatal = none := hready.noFault
  obtain ⟨hzero, -⟩ := h.slarPhase hc
  obtain ⟨hnone, hsingle, hseveral⟩ := readAddressAcknowledged s hready
  obtain hlen | hlen | hlen : s.record.inLength = 0 ∨ s.record.inLength = 1 ∨ 2 ≤ s.record.inLength := by omega
  · obtain rfl := next_unique (hnone hlen) hexec
    exact ⟨hfatal, fun _ => hzero, by simp, fun _ => ⟨hzero, by simp [State.sto, afterEvent]⟩, by simp⟩
  · obtain rfl := next_unique (hsingle hlen) hexec
    exact ⟨hfatal, fun _ => hzero, by simp, fun _ => ⟨hzero, by simp [State.aa, afterEvent]⟩, by simp⟩
  · obtain rfl := next_unique (hseveral hlen) hexec
    exact ⟨hfatal, fun _ => hzero, by simp, fun _ => ⟨hzero, fun _ _ => hlen⟩, by simp⟩

theorem servedInOrder_rxdataAck {s t : State} (h : s.Undisturbed) (hready : EventReady s)
    (hc : s.ctrl = .reported 0x50#8) (hexec : exec .rxdataAck s = .next t) : ServedInOrder t 0x50#8 := by
  have hsi : s.con.getLsbD 3 = true := hready.pending
  have hfatal : s.fatal = none := hready.noFault
  obtain ⟨m, hm⟩ := Option.ne_none_iff_exists'.mp h.inBound
  have hsta : s.con[5] = false := h.dataNoStart _ hc hsi (.inr (.inl rfl))
  have hroom : s.record.position + 1 < s.record.inLength := h.rxPending hc hsi
  obtain ⟨hlast, hmore⟩ := (dataReceivedAcknowledged s hready).1 m (Nat.lt_of_succ_lt hroom) hm
  obtain hlen | hlen := le_or_gt s.record.inLength (s.record.position + 2)
  · obtain rfl := next_unique (hlast hlen) hexec
    exact ⟨hfatal, by simp [State.sta, afterEvent, hsta], by simp, by simp,
      fun _ => ⟨hroom, by simp [State.aa, afterEvent]⟩⟩
  · obtain rfl := next_unique (hmore hlen) hexec
    exact ⟨hfatal, by simp [State.sta, afterEvent, hsta], by simp, by simp, fun _ => ⟨hroom, fun _ => hlen⟩⟩

/-- Every event an undisturbed state has pending is served in order. -/
theorem servedInOrder_of_pending {s t : State} {c : Byte} (h : s.Undisturbed) (hready : EventReady s)
    (hc : s.ctrl = .reported c) (hexec : exec (decodeByte c) s = .next t) : ServedInOrder t c := by
  have hfatal : s.fatal = none := hready.noFault
  obtain ⟨hnamed, hlost⟩ := h.reportedNamed c hc
  have hcodes : c ∈ namedCodes := by simpa using hnamed
  simp only [namedCodes, List.mem_cons, List.not_mem_nil, or_false] at hcodes
  obtain rfl | rfl | rfl | rfl | rfl | rfl | rfl | rfl | rfl | rfl | rfl | rfl | rfl | rfl := hcodes
  · obtain rfl := next_unique (busErrorSetsStatusAndStops s hready) hexec
    exact servedInOrder_of_kept h hc (by decide) hfatal rfl (by simp [State.sta, afterEvent])
  · obtain rfl := next_unique (startSendsAddressByte s hready) hexec
    exact servedInOrder_of_kept h hc (by decide) hfatal rfl (by simp [State.sta, afterEvent])
  · obtain ⟨b, -, -, hnext⟩ := repeatedStartSendsReadAddress s hready
    obtain rfl := next_unique hnext hexec
    exact servedInOrder_of_kept h hc (by decide) hfatal rfl (by simp [State.sta, afterEvent])
  · exact servedInOrder_slawAck h hready hc hexec
  · obtain rfl := next_unique (writeAddressRefused s hready) hexec
    exact servedInOrder_of_kept h hc (by decide) hfatal rfl (by simp [State.sta, afterEvent])
  · exact servedInOrder_txdataAck h hready hc hexec
  · obtain rfl := next_unique (dataSentRefused s hready) hexec
    exact servedInOrder_of_kept h hc (by decide) hfatal rfl (by simp [State.sta, afterEvent])
  · exact absurd rfl hlost
  · exact servedInOrder_slarAck h hready hc hexec
  · obtain rfl := next_unique (readAddressRefused s hready) hexec
    exact servedInOrder_of_kept h hc (by decide) hfatal rfl (by simp [State.sta, afterEvent])
  · exact servedInOrder_rxdataAck h hready hc hexec
  · exact servedInOrder_rxdataNack h hready hc hexec
  · obtain rfl := next_unique (noActionEventsOnlyClearTheFlag s hready).1 hexec
    exact servedInOrder_of_kept h hc (by decide) hfatal rfl (by simp [State.sta, afterEvent])
  · obtain rfl := next_unique (noActionEventsOnlyClearTheFlag s hready).2 hexec
    exact servedInOrder_of_kept h hc (by decide) hfatal rfl (by simp [State.sta, afterEvent])

/-- An event is pending only after a report of the controller. -/
theorem reported_of_pending {s : State} (h : s.Undisturbed) (hsi : s.si = true) : ∃ c, s.ctrl = .reported c := by
  rcases hc : s.ctrl with _ | _ | c | ⟨c, con, dat⟩
  case reported => exact ⟨c, rfl⟩
  case idle => exact nomatch hsi.symm.trans (h.idleQuiet hc)
  case starting => exact nomatch hsi.symm.trans (h.starting hc).1
  case acting => exact nomatch hsi.symm.trans (h.acting c con dat hc).1

theorem undisturbed_of_pendingInstr {s t : State} (h : s.Undisturbed) (hexec : exec s.pendingInstr s = .next t) :
    t.Undisturbed := by
  have hevent := decodeByte_isEvent s.stat
  obtain ⟨hready, -⟩ := exec_event_next hevent hexec
  have hsi : s.con.getLsbD 3 = true := hready.pending
  obtain ⟨c, hc⟩ := reported_of_pending h hsi
  have hstat : s.stat = c := h.pending c hc hsi
  obtain ⟨hnamed, hlost⟩ := h.reportedNamed c hc
  have horder : ServedInOrder t c := servedInOrder_of_pending h hready hc (by rwa [State.pendingInstr, hstat] at hexec)
  obtain ⟨-, hout, -, -, -, -, -, -, -, -, -, -, hctrl, -⟩ := eventsLeaveTheRestAlone _ s t hevent hexec
  have hin : t.record.dataIn ≠ none := by
    obtain hsame | ⟨-, hbound⟩ := (exec_event_recordWrite hevent hexec).dataIn
    · exact hsame ▸ h.inBound
    · exact hbound
  exact undisturbed_of_served (hctrl.trans hc) ((eventStepClearsOrKeepsTheFlag _ s t hevent hexec).1 horder.noFault)
    (hout ▸ h.outBound) hin hnamed hlost horder

/-! ### The statements -/

/-- The turns to come are no part of the invariant. -/
theorem State.Undisturbed.setAgenda {s : State} (h : s.Undisturbed) (rest : List Turn) :
    State.Undisturbed { s with agenda := rest } :=
  { h with }

/-- Settles O57: each agent's turn keeps the invariant, the interrupt context's because the event it serves was raised in
order, the controller's because it conforms, and the foreground's because it requests nothing. -/
theorem calmStepKeepsUndisturbed : Obligations.CalmStepKeepsUndisturbed := by
  intro s t h hcalm hstep
  unfold calmNext at hcalm
  obtain ⟨-, ⟨-, rfl⟩ | ⟨rest, ha, hexec⟩ | ⟨i, rest, ha, hi, hexec⟩ | ⟨a, rest, ha, hexec⟩⟩ := step_cases hstep
  · exact h
  · exact undisturbed_of_pendingInstr (h.setAgenda rest) hexec
  · rw [ha] at hcalm
    obtain ⟨-, heffect⟩ := exec_host_cases hi hexec
    exact (h.setAgenda rest).of_calmFrame (calmFrame_of_hostEffect hcalm heffect)
  · rw [ha] at hcalm
    exact undisturbed_of_ctrlStep (h.setAgenda rest) hcalm hexec

end Sys2Proof.Machine

/-! PROOFS. One step, by the agent whose turn it is (R10, R25, R28, R80), and several states side by side (R24, R155). -/

namespace Sys2Proof.Machine

/-- Settles O43: the byte in `STAT` decodes to the pending instruction. -/
theorem stepRunsThePendingEvent : Obligations.StepRunsThePendingEvent := by
  intro s i rest hf ha hdecode
  have hi : decodeByte s.stat = i := congrArg Prod.fst (Except.ok.inj hdecode)
  simp only [step, hf, ha, takeTurn, State.pendingInstr, hi]

theorem step_host {s : State} {i : Instr} {rest : List Turn} (hf : s.fatal = none) (ha : s.agenda = .host i :: rest)
    (hi : i.isEvent = false) : step s = exec i { s with agenda := rest } := by
  simp only [step, hf, ha, takeTurn, hi]
  rfl

theorem step_ctrl {s : State} {a : CtrlAct} {rest : List Turn} (hf : s.fatal = none) (ha : s.agenda = .ctrl a :: rest) :
    step s = ctrlStep a { s with agenda := rest } := by
  simp only [step, hf, ha, takeTurn]

/-- Settles O44: the step takes the first turn off the agenda and hands the state to its agent. -/
theorem stepTakesTheNextTurn : Obligations.StepTakesTheNextTurn := by
  intro s hf
  refine ⟨fun i rest ha hi => step_host hf ha hi, fun i rest ha hi => ?event, fun a rest ha => step_ctrl hf ha,
    fun ha => ?none⟩
  case event =>
    simp only [step, hf, ha, takeTurn, hi]
    rfl
  case none => simp only [step, hf, ha]

/-- Settles O45: each act's own writes; a raise tests `SI` first. -/
theorem controllerRaisesOneEventAtATime : Obligations.ControllerRaisesOneEventAtATime := by
  intro s code rx
  refine ⟨fun hsi => ?raise, fun hsi => ?pending, fun hc => ?idle, fun c hc => ?reported, fun hc => ?moved, rfl, rfl, rfl⟩
  case raise => exact if_neg (ne_true_of_eq_false hsi)
  case pending => exact if_pos hsi
  case idle => rw [ctrlStep, State.lookedAt, hc]
  case reported => rw [ctrlStep, State.lookedAt, hc]
  case moved =>
    have hlooked : s.lookedAt = s.ctrl := by
      obtain hc | ⟨c, con, dat, hc⟩ := hc <;> rw [State.lookedAt, hc]
    rw [ctrlStep, hlooked]

/-- Settles O50: the system's step replaces one state in the list. -/
theorem instancesAreIndependent : Obligations.InstancesAreIndependent := by
  intro sys sys' k h
  unfold systemStep at h
  split at h
  · next s' hstep =>
    obtain rfl := Host.Outcome.next.inj h
    exact ⟨List.length_set, fun j hj => List.getElem?_set_ne hj.symm, s', hstep, List.getElem?_set_self k.isLt⟩
  · exact nomatch h
  · exact nomatch h

/-- Without a latched fault no instruction stops with one: a fault raised now is latched, and the next step finds it
(R37 c). -/
theorem exec_ne_fault {i : Instr} {s : State} (hf : s.fatal = none) (f : Fault) : exec i s ≠ .fault f := by
  cases hi : i.isEvent
  case true =>
    obtain ⟨code, hcode⟩ := Option.isSome_iff_exists.mp hi
    rw [exec_event hcode]
    obtain ⟨-, h⟩ | ⟨f', hf', -⟩ | ⟨-, -, h⟩ := eventStep_cases s code (rowOf i)
    · rw [h]; nofun
    · exact nomatch hf.symm.trans hf'
    · rw [h]; nofun
  case false =>
    cases i with
    | initialise => rw [exec, execInitialise, hostStep_none hf]; (repeat' split) <;> nofun
    | isInitialized => rw [exec, execIsInitialized, hostStep_none hf]; split <;> nofun
    | submitTransaction => rw [exec, execSubmitTransaction, hostStep_none hf]; (repeat' split) <;> nofun
    | wait => rw [exec, execWait, hostStep_none hf]; split <;> nofun
    | timeoutAbort => rw [exec, execTimeoutAbort, hostStep_none hf]; split <;> nofun
    | returnStatus => rw [exec, execReturnStatus, hostStep_none hf]; split <;> nofun
    | _ => exact nomatch hi

theorem ctrlStep_ne_fault (a : CtrlAct) (s : State) (f : Fault) : ctrlStep a s ≠ .fault f := by
  cases a with
  | raise => rw [ctrlStep]; split <;> nofun
  | look | finishStop | stopThenStart | goIdle => nofun

theorem takeTurn_ne_fault {u : Turn} {s : State} (hf : s.fatal = none) (f : Fault) : takeTurn u s ≠ .fault f := by
  cases u with
  | isr => exact exec_ne_fault hf f
  | host i =>
    rw [takeTurn]
    split
    · nofun
    · exact exec_ne_fault hf f
  | ctrl a => exact ctrlStep_ne_fault a s f

theorem step_ne_fault {s : State} (hf : s.fatal = none) (f : Fault) : step s ≠ .fault f := by
  unfold step
  split
  · next hf' => exact nomatch hf.symm.trans hf'
  · split
    · nofun
    · next u rest _ => exact takeTurn_ne_fault (s := { s with agenda := rest }) hf f

theorem run_zero (s : State) :
    Sys2Proof.core.run 0 s = (.next s : Host.Outcome State Fault Refusal) := rfl

/-- The invariant of a calm run along it. -/
theorem undisturbed_of_calmRun {n : Nat} {s : State} (h : s.Undisturbed) (hcalm : calmRun n s) :
    (∀ f : Fault, (Sys2Proof.core.run n s : Host.Outcome State Fault Refusal) ≠ .fault f) ∧
      ∀ t : State, (Sys2Proof.core.run n s : Host.Outcome State Fault Refusal) = .next t → t.Undisturbed := by
  induction n generalizing s with
  | zero =>
    rw [run_zero]
    exact ⟨nofun, fun t ht => Host.Outcome.next.inj ht ▸ h⟩
  | succ n ih =>
    obtain ⟨hnext, hrest⟩ := hcalm
    rw [run_succ]
    rcases hstep : step s with s' | f | r
    · exact ih (calmStepKeepsUndisturbed s s' h hnext hstep) (hrest s' hstep)
    · exact absurd hstep (step_ne_fault h.noFault f)
    · refine ⟨fun f (hf : Host.Outcome.refused r = .fault f) => ?_, fun t (ht : Host.Outcome.refused r = .next t) => ?_⟩
      · exact nomatch hf
      · exact nomatch ht

/-- A transaction just started meets the invariant: the controller is idle. -/
theorem State.Started.undisturbed {s : State} (h : s.Started) : s.Undisturbed :=
  undisturbed_of_idle ⟨h.noFault, h.outBound, h.inBound, fun _ => h.cursorZero⟩ h.ctrlIdle h.notPending

/-- Settles O58: the invariant holds at the start and along the run, and it has no fault latched. -/
theorem calmRunNeverFaults : Obligations.CalmRunNeverFaults := by
  intro n s hs hcalm
  obtain ⟨hrun, hend⟩ := undisturbed_of_calmRun hs.undisturbed hcalm
  exact ⟨hrun, fun t ht => (hend t ht).noFault⟩

end Sys2Proof.Machine

/-! PROOFS. The foreground's commands (R130 to R136), micro-step by micro-step, and their runs. -/

namespace Sys2Proof.Machine

/-! ### Initialize (R130) -/

theorem initialiseAdmitted_of {s : State} (h : s.con.getLsbD 6 = false ∨ s.quiescent = true) :
    s.initialiseAdmitted = true := by
  rw [State.initialiseAdmitted, State.i2en]
  obtain h | h := h
  · rw [h]; rfl
  · rw [h, Bool.or_true]

theorem exec_initialise_of_idle {s : State} {a : InitAnswers} (h : HostAt .idle s)
    (hadm : s.con.getLsbD 6 = false ∨ s.quiescent = true) : exec (.initialise a) s = .next (initPins a s) := by
  obtain ⟨hpoint, hfatal⟩ := h
  simp only [exec, execInitialise, hostStep_none hfatal, hpoint, initialiseAdmitted_of hadm, if_true]

theorem exec_initialise_of_initPower {s : State} {a : InitAnswers} (h : HostAt .initPower s) :
    exec (.initialise a) s = .next (initPower a s) := by
  obtain ⟨hpoint, hfatal⟩ := h
  rw [exec, execInitialise, hostStep_none hfatal, hpoint]

theorem exec_initialise_of_initDividers {s : State} {f : Nat} (a : InitAnswers) (h : HostAt (.initDividers f) s) :
    exec (.initialise a) s = .next (initDividers f s) := by
  obtain ⟨hpoint, hfatal⟩ := h
  rw [exec, execInitialise, hostStep_none hfatal, hpoint]

theorem exec_initialise_of_initClear {s : State} (a : InitAnswers) (h : HostAt .initClear s) :
    exec (.initialise a) s = .next (initClear s) := by
  obtain ⟨hpoint, hfatal⟩ := h
  rw [exec, execInitialise, hostStep_none hfatal, hpoint]

theorem exec_initialise_of_initEnable {s : State} (a : InitAnswers) (h : HostAt .initEnable s) :
    exec (.initialise a) s = .next (initEnable s) := by
  obtain ⟨hpoint, hfatal⟩ := h
  rw [exec, execInitialise, hostStep_none hfatal, hpoint]

theorem exec_initialise_of_initRegister {s : State} {a : InitAnswers} (h : HostAt .initRegister s) :
    exec (.initialise a) s = .next (initRegister a s) := by
  obtain ⟨hpoint, hfatal⟩ := h
  rw [exec, execInitialise, hostStep_none hfatal, hpoint]

/-! Its three collaborator calls, answered success. -/

theorem exec_initialise_pins {s : State} {a : InitAnswers} (h : HostAt .idle s)
    (hadm : s.con.getLsbD 6 = false ∨ s.quiescent = true) (hpins : a.pinFailure = none) :
    exec (.initialise a) s = .next { s with host := .initPower, trace := s.trace ++ pinItems none } := by
  rw [exec_initialise_of_idle h hadm, initPins, hpins]; rfl

theorem exec_initialise_power {s : State} {a : InitAnswers} {f : Nat} (h : HostAt .initPower s)
    (hpower : a.power = some f) : exec (.initialise a) s = .next { s with
      host := .initDividers f, trace := s.trace ++ [.collab .powerUpPeripheral (.frequency f)] } := by
  rw [exec_initialise_of_initPower h, initPower, hpower]; rfl

theorem exec_initialise_register {s : State} {a : InitAnswers} (h : HostAt .initRegister s)
    (hok : a.registerOk = true) : exec (.initialise a) s = .next { s with
      handlerRegistered := true, host := .idle, returned := some .ok, trace := s.trace ++ [.collab .register .ok] } := by
  rw [exec_initialise_of_initRegister h, initRegister, if_pos hok]; rfl

/-- Settles O30: each point selects its micro-step, and the collaborators' success its outcome. -/
theorem initialiseMicroSteps : Obligations.InitialiseMicroSteps := by
  intro s a
  refine ⟨fun hat hadm hpins => ?i1, fun f hat hpower => ?i2, fun f hat => ?i3, fun hat => ?i4, fun hat => ?i5,
    fun hat hok => ?i6⟩
  case i1 => exact exec_initialise_pins hat hadm hpins
  case i2 => exact exec_initialise_power hat hpower
  case i3 => exact exec_initialise_of_initDividers a hat
  case i4 => exact exec_initialise_of_initClear a hat
  case i5 => exact exec_initialise_of_initEnable a hat
  case i6 => exact exec_initialise_register hat hok

/-- The calls before the failing one are answered, and it is the last (D13). -/
theorem pinItems_some {k : Fin 6} {failing : CollabCall} (h : pinCalls[k.val]? = some failing) :
    pinItems (some k) = (pinCalls.take k.val).map (.collab · .ok) ++ [.collab failing .failure] := by
  have hlast : (pinCalls.drop k.val).take 1 = [failing] := by
    rw [List.take_one, List.head?_drop, h]; rfl
  rw [pinItems, hlast]; rfl

/-- Settles O31: a failure gives the foreground back with it, and only the calls' items are written. -/
theorem initialiseStopsAtTheFailingCall : Obligations.InitialiseStopsAtTheFailingCall := by
  intro s a
  refine ⟨fun k calls failing hat hadm hpins hcalls hk => ?pins, fun hat hpower => ?power, fun hat hfails => ?register⟩
  case pins =>
    obtain rfl : calls = pinCalls := hcalls
    have hpoint : s.host = .idle := hat.1
    rw [exec_initialise_of_idle hat hadm, initPins, hpins, pinItems_some hk, ← List.append_assoc]
    simp only [State.giveBack, hpoint]
  case power =>
    rw [exec_initialise_of_initPower hat, initPower, hpower]; rfl
  case register =>
    rw [exec_initialise_of_initRegister hat, initRegister, if_neg (ne_true_of_eq_false hfails)]; rfl

/-- A run whose next turn is the foreground's goes on from what its command leaves. -/
theorem run_host {n : Nat} {s t : State} {i : Instr} {rest : List Turn} {o : Host.Outcome State Fault Refusal}
    (hf : s.fatal = none) (ha : s.agenda = .host i :: rest) (hi : i.isEvent = false)
    (hexec : exec i { s with agenda := rest } = .next t) (hrun : Sys2Proof.core.run n t = o) :
    Sys2Proof.core.run (n + 1) s = o := by
  rw [run_succ, step_host hf ha hi, hexec]
  exact hrun

/-- The state a successful `Initialize` at frequency `f` ends in (R130). -/
def State.afterInitialise (s : State) (f : Nat) : State :=
  { s with
    con := (s.con &&& ~~~0x3C#8) ||| 0x40#8
    divLo := (dividers f).1
    divHi := (dividers f).2
    handlerRegistered := true
    host := .idle
    returned := some .ok
    trace := s.trace ++ pinItems none ++ [.collab .powerUpPeripheral (.frequency f)] ++
      [.divWrite (dividers f).1 (dividers f).2] ++ [.conClr 0x3C#8] ++ [.conSet 0x40#8] ++ [.collab .register .ok] }

theorem run_initialise {s : State} {a : InitAnswers} {f : Nat} {rest : List Turn} (h : HostAt .idle s)
    (hadm : s.con.getLsbD 6 = false ∨ s.quiescent = true) (hpins : a.pinFailure = none) (hpower : a.power = some f)
    (hok : a.registerOk = true) (ha : s.agenda = List.replicate 6 (.host (.initialise a)) ++ rest) :
    Sys2Proof.core.run 6 s = .next { s.afterInitialise f with agenda := rest } := by
  obtain ⟨hpoint, hfatal⟩ := h
  refine run_host hfatal ha rfl (exec_initialise_pins ⟨hpoint, hfatal⟩ hadm hpins) ?_
  refine run_host hfatal rfl rfl (exec_initialise_power ⟨rfl, hfatal⟩ hpower) ?_
  refine run_host hfatal rfl rfl (exec_initialise_of_initDividers a ⟨rfl, hfatal⟩) ?_
  refine run_host hfatal rfl rfl (exec_initialise_of_initClear a ⟨rfl, hfatal⟩) ?_
  refine run_host hfatal rfl rfl (exec_initialise_of_initEnable a ⟨rfl, hfatal⟩) ?_
  exact run_host hfatal rfl rfl (exec_initialise_register ⟨rfl, hfatal⟩ hok) rfl

/-- A successful `Initialize` ends quiescent where the controller is idle, so the next one is accepted. -/
theorem afterInitialise_quiescent {s : State} (f : Nat) (rest : List Turn) (hfatal : s.fatal = none)
    (hctrl : s.ctrl = .idle) : State.quiescent { s.afterInitialise f with agenda := rest } = true := by
  simp [State.quiescent, State.afterInitialise, State.si, State.sto, hfatal, hctrl]

theorem clearThenEnable_twice (c : Byte) : (((c &&& ~~~0x3C#8) ||| 0x40#8) &&& ~~~0x3C#8) ||| 0x40#8 =
    (c &&& ~~~0x3C#8) ||| 0x40#8 := by
  revert c; decide

theorem clearThenEnable_bits (c : Byte) : ((c &&& ~~~0x3C#8) ||| 0x40#8) &&& 0x7C#8 = 0x40#8 := by
  revert c; decide

/-- Settles O32: the state the first one ends in is quiescent, so the second runs from it, and writes what stands there. -/
theorem initialiseTwiceEndsAsOnce : Obligations.InitialiseTwiceEndsAsOnce := by
  intro s a f hat hadm hctrl hpins hpower hok ha
  have hfatal : s.fatal = none := hat.2
  have hfirst := run_initialise (rest := List.replicate 6 (.host (.initialise a))) hat hadm hpins hpower hok ha
  have hquiescent := afterInitialise_quiescent f (List.replicate 6 (.host (.initialise a))) hfatal hctrl
  have hsecond := run_initialise (s := { s.afterInitialise f with agenda := List.replicate 6 (.host (.initialise a)) })
    (rest := []) ⟨rfl, hfatal⟩ (.inr hquiescent) hpins hpower hok rfl
  exact ⟨_, _, hfirst, (run_add 6 6 s _ hfirst).trans hsecond, rfl, clearThenEnable_bits _, rfl, rfl, rfl, rfl, rfl, rfl,
    rfl, rfl, clearThenEnable_twice _, rfl, rfl, rfl, rfl⟩

end Sys2Proof.Machine

/-! PROOFS. IsInitialized, SubmitTransaction, the wait and the abort (R131 to R135). -/

namespace Sys2Proof.Machine

/-! ### IsInitialized and SubmitTransaction (R131, R132) -/

/-- Settles O33: the query gives bit 6 back, and the foreground was idle already. -/
theorem isInitializedReadsTheEnableBit : Obligations.IsInitializedReadsTheEnableBit := by
  intro s hat
  obtain ⟨hpoint, hfatal⟩ := hat
  rw [exec, execIsInitialized, hostStep_none hfatal, hpoint]
  simp only [State.giveBack, State.i2en]

theorem exec_submit_of_idle {s : State} {u : Submission} (h : HostAt .idle s) (ha : u.address ≤ 0x7F#10) :
    exec (.submitTransaction u) s = .next (submitGuard u s) := by
  obtain ⟨hpoint, hfatal⟩ := h
  simp only [exec, execSubmitTransaction, hostStep_none hfatal, hpoint, ha, if_true]

theorem exec_submit_guard {s : State} {u : Submission} (h : HostAt .idle s) (ha : u.address ≤ 0x7F#10)
    (hen : s.con.getLsbD 6 = true) : exec (.submitTransaction u) s = .next { s with host := .submitInstall u } := by
  rw [exec_submit_of_idle h ha, submitGuard, State.i2en, if_pos hen]; rfl

theorem exec_submit_install {s : State} {u : Submission} (h : HostAt (.submitInstall u) s) :
    exec (.submitTransaction u) s = .next { s with record := installRecord u, host := .submitStart u } := by
  obtain ⟨hpoint, hfatal⟩ := h
  simp only [exec, execSubmitTransaction, hostStep_none hfatal, hpoint, if_true]
  rfl

theorem exec_submit_start {s : State} {u : Submission} (h : HostAt (.submitStart u) s) :
    exec (.submitTransaction u) s = .next { s with
      con := s.con ||| 0x20#8, host := .waiting, trace := s.trace ++ [.conSet 0x20#8] } := by
  obtain ⟨hpoint, hfatal⟩ := h
  simp only [exec, execSubmitTransaction, hostStep_none hfatal, hpoint, if_true]
  rfl

/-- Settles O34: the guard passes with `I2EN` set; the install binds buffers that read as the caller's; the start is one
set-write. -/
theorem submitMicroSteps : Obligations.SubmitMicroSteps := by
  intro s u
  refine ⟨fun hat ha hen => exec_submit_guard hat ha hen, fun hat => ?install, fun hat => exec_submit_start hat⟩
  case install =>
    exact ⟨Memory.ofBytes u.outBuffer, Memory.ofBytes u.inBuffer, exec_submit_install hat,
      Memory.read_ofBytes u.outBuffer, Memory.read_ofBytes u.inBuffer⟩

/-- Settles O35: with `I2EN` clear the guard latches the fault. -/
theorem submitBeforeInitialiseFaults : Obligations.SubmitBeforeInitialiseFaults := by
  intro s u hat ha hen
  rw [exec_submit_of_idle hat ha, submitGuard, State.i2en, if_neg (ne_true_of_eq_false hen)]
  rfl

/-- The three micro-steps of a submission, with `I2EN` set. -/
theorem run_submit {s : State} {u : Submission} {rest : List Turn} (h : HostAt .idle s) (ha : u.address ≤ 0x7F#10)
    (hen : s.con.getLsbD 6 = true)
    (hagenda : s.agenda = List.replicate 3 (.host (.submitTransaction u)) ++ rest) :
    Sys2Proof.core.run 3 s = .next { s with
      record := installRecord u, con := s.con ||| 0x20#8, host := .waiting, trace := s.trace ++ [.conSet 0x20#8]
      agenda := rest } := by
  obtain ⟨hpoint, hfatal⟩ := h
  refine run_host hfatal hagenda rfl (exec_submit_guard ⟨hpoint, hfatal⟩ ha hen) ?_
  refine run_host hfatal rfl rfl (exec_submit_install ⟨rfl, hfatal⟩) ?_
  exact run_host hfatal rfl rfl (exec_submit_start ⟨rfl, hfatal⟩) rfl

theorem quiescent_iff (s : State) : s.quiescent = true ↔
    s.host = .idle ∧ s.si = false ∧ s.ctrl = .idle ∧ s.sto = false ∧ s.fatal = none := by
  simp [State.quiescent, and_assoc]

/-- Settles O56: a state just started is undisturbed; and a submission in a quiescent state installs a record at cursor 0
with both buffers bound, leaving the controller idle and nothing pending. -/
theorem startedIsUndisturbed : Obligations.StartedIsUndisturbed := by
  refine ⟨fun s hs => hs.undisturbed, fun s u rest hquiescent hen ha hagenda => ?_⟩
  obtain ⟨hpoint, hsi, hctrl, -, hfatal⟩ := (quiescent_iff s).mp hquiescent
  refine ⟨_, run_submit ⟨hpoint, hfatal⟩ ha hen hagenda, ?started, rfl, rfl, rfl, rfl⟩
  case started =>
    have hsi' : s.con[3] = false := hsi
    exact ⟨hfatal, hctrl, by simp [hsi'], rfl, nofun, nofun⟩

/-! ### The wait and the abort (R134, R135) -/

theorem exec_wait_of_waiting {s : State} (d : Bool) (h : HostAt .waiting s) :
    exec (.wait d) s = .next (waitOnce d s) := by
  obtain ⟨hpoint, hfatal⟩ := h
  rw [exec, execWait, hostStep_none hfatal, hpoint]

theorem exec_wait_elapsed {s : State} (h : HostAt .waiting s) (hbusy : s.record.busy = true) :
    exec (.wait true) s = .next { s with host := .abortStop } := by
  rw [exec_wait_of_waiting true h, waitOnce, if_pos hbusy]; rfl

/-- Settles O37: `busy` is tested before the answer of the deadline. -/
theorem waitTestsBusyFirst : Obligations.WaitTestsBusyFirst := by
  intro s d hat
  refine ⟨fun hbusy => ?done, fun hbusy hd => ?elapsed, fun hbusy hd => ?stays⟩
  case done => rw [exec_wait_of_waiting d hat, waitOnce, if_neg (ne_true_of_eq_false hbusy)]; rfl
  case elapsed => exact hd ▸ exec_wait_elapsed hat hbusy
  case stays => rw [exec_wait_of_waiting d hat, waitOnce, if_pos hbusy, hd]; rfl

theorem exec_timeoutAbort_stop {s : State} (h : HostAt .abortStop s) : exec .timeoutAbort s = .next { s with
    con := s.con ||| 0x10#8, host := .abortNack, trace := s.trace ++ [.conSet 0x10#8] } := by
  obtain ⟨hpoint, hfatal⟩ := h
  rw [exec, execTimeoutAbort, hostStep_none hfatal, hpoint]; rfl

theorem exec_timeoutAbort_nack {s : State} (h : HostAt .abortNack s) : exec .timeoutAbort s = .next { s with
    con := s.con &&& ~~~0x04#8, host := .abortStatus, trace := s.trace ++ [.conClr 0x04#8] } := by
  obtain ⟨hpoint, hfatal⟩ := h
  rw [exec, execTimeoutAbort, hostStep_none hfatal, hpoint]; rfl

theorem exec_timeoutAbort_status {s : State} (h : HostAt .abortStatus s) : exec .timeoutAbort s = .next { s with
    record := { s.record with status := .timedOut }, host := .abortWarn } := by
  obtain ⟨hpoint, hfatal⟩ := h
  rw [exec, execTimeoutAbort, hostStep_none hfatal, hpoint]; rfl

/-- What the abort of a transaction with this record warns of (R156). -/
def abortWarning (r : TransactionRecord) : List TraceItem :=
  if r.outLength ≠ 0 ∧ r.inLength ≠ 0 then [.warningMultiPhaseTimeout] else []

theorem exec_timeoutAbort_warn {s : State} (h : HostAt .abortWarn s) : exec .timeoutAbort s = .next { s with
    host := .returnClear, trace := s.trace ++ abortWarning s.record } := by
  obtain ⟨hpoint, hfatal⟩ := h
  rw [exec, execTimeoutAbort, hostStep_none hfatal, hpoint, abortWarning]
  simp only [abortWarn]
  split
  · rfl
  · rw [List.append_nil]; rfl

/-- Settles O38: each point selects its micro-step, and the lengths whether A4 warns. -/
theorem timeoutAbortMicroSteps : Obligations.TimeoutAbortMicroSteps := by
  intro s
  refine ⟨fun hat => exec_timeoutAbort_stop hat, fun hat => exec_timeoutAbort_nack hat,
    fun hat => exec_timeoutAbort_status hat, fun hat hout hin => ?warns, fun hat hlen => ?quiet⟩
  case warns => rw [exec_timeoutAbort_warn hat, abortWarning, if_pos ⟨hout, hin⟩]
  case quiet =>
    have hnot : ¬ (s.record.outLength ≠ 0 ∧ s.record.inLength ≠ 0) := fun ⟨hout, hin⟩ => hlen.elim hout hin
    rw [exec_timeoutAbort_warn hat, abortWarning, if_neg hnot, List.append_nil]

/-- Settles O40: the seven micro-steps, W, A1 to A4, F1 and F2, one after the other. -/
theorem timedOutWaitReturnsTimedOut : Obligations.TimedOutWaitReturnsTimedOut := by
  intro s hat hbusy ha
  obtain ⟨hpoint, hfatal⟩ := hat
  have hrun : Sys2Proof.core.run 7 s = .next { s with
      record := { s.record with status := .timedOut }
      con := ((s.con ||| 0x10#8) &&& ~~~0x04#8) &&& ~~~0x20#8
      host := .idle
      returned := some (.status .timedOut)
      trace := s.trace ++ [.conSet 0x10#8] ++ [.conClr 0x04#8] ++ abortWarning s.record ++ [.conClr 0x20#8] ++
        [.returned .timedOut]
      agenda := [] } := by
    refine run_host hfatal ha rfl (exec_wait_elapsed ⟨hpoint, hfatal⟩ hbusy) ?_
    refine run_host hfatal rfl rfl (exec_timeoutAbort_stop ⟨rfl, hfatal⟩) ?_
    refine run_host hfatal rfl rfl (exec_timeoutAbort_nack ⟨rfl, hfatal⟩) ?_
    refine run_host hfatal rfl rfl (exec_timeoutAbort_status ⟨rfl, hfatal⟩) ?_
    refine run_host hfatal rfl rfl (exec_timeoutAbort_warn ⟨rfl, hfatal⟩) ?_
    refine run_host hfatal rfl rfl (exec_returnStatus_of_returnClear ⟨rfl, hfatal⟩) ?_
    exact run_host hfatal rfl rfl (exec_returnStatus_of_returnRead ⟨rfl, hfatal⟩) rfl
  exact ⟨_, hrun, rfl, rfl, rfl, rfl, by simp [abortWarning]⟩

/-! ### What is no host step (R12, R37 d, R173) -/

/-- Settles O36: each command is refused at every point that is not one of its own, and at its own for the reason the
statement names. -/
theorem refusedHostCalls : Obligations.RefusedHostCalls := by
  intro s u a d hf
  refine ⟨fun hpoint ha => ?address, fun hidle hinstall hstart => ?submit, fun hidle => ?query,
    fun hpast hreg => ?initialise, fun hpoint hen hbusy => ?live, fun hpoint => ?wait, fun h1 h2 h3 h4 => ?abort, fun h1 h2 => ?giveBack⟩
  case address =>
    simp only [exec, execSubmitTransaction, hostStep_none hf, hpoint, if_neg (BitVec.not_le.mpr ha)]
  case submit =>
    simp only [exec, execSubmitTransaction, hostStep_none hf]
    split
    · next h => exact absurd h hidle
    · next v h => exact if_neg fun e : u = v => hinstall (e ▸ h)
    · next v h => exact if_neg fun e : u = v => hstart (e ▸ h)
    · rfl
  case query =>
    simp only [exec, execIsInitialized, hostStep_none hf]
  case initialise =>
    simp only [exec, execInitialise, hostStep_none hf]
    split
    · next h => exact nomatch h ▸ hpast
    · next h => exact nomatch h ▸ hpast
    · next f h => exact nomatch h ▸ hpast
    · next h => exact nomatch h ▸ hpast
    · next h => exact nomatch h ▸ hpast
    · next h => exact absurd h hreg
    · rfl
  case live =>
    have hnot : s.initialiseAdmitted = false := by rw [State.initialiseAdmitted, State.i2en, hen, hbusy]; rfl
    simp only [exec, execInitialise, hostStep_none hf, hpoint, hnot]
    rfl
  case wait =>
    simp only [exec, execWait, hostStep_none hf]
  case abort =>
    simp only [exec, execTimeoutAbort, hostStep_none hf]
  case giveBack =>
    simp only [exec, execReturnStatus, hostStep_none hf]

/-! ### What every host command keeps (R35, R148, R152) -/

/-- No micro-step writes `STAT`, `DAT`, the controller's position or the turns to come. -/
theorem HostEffect.frame {i : Instr} {s t : State} (h : HostEffect i s t) :
    t.stat = s.stat ∧ t.datTx = s.datTx ∧ t.datRx = s.datRx ∧ t.ctrl = s.ctrl ∧ t.agenda = s.agenda := by
  cases h <;> exact ⟨rfl, rfl, rfl, rfl, rfl⟩

/-- Settles O41: the micro-steps' frame, and the three things they make of the record. -/
theorem hostCommandsLeaveTheBusSideAlone : Obligations.HostCommandsLeaveTheBusSideAlone := by
  intro i s t hi h
  obtain ⟨-, heffect⟩ := exec_host_cases hi h
  obtain ⟨hstat, hdatTx, hdatRx, hctrl, hagenda⟩ := heffect.frame
  refine ⟨hstat, hdatTx, hdatRx, hctrl, hagenda, ?_⟩
  obtain hrec | hrec | ⟨u, hi, hpoint, hrec⟩ := heffect.record_cases
  · exact ⟨.inl hrec, fun hbusy => by rw [hrec]; exact hbusy⟩
  · exact ⟨.inr (.inl hrec), fun hbusy => by rw [hrec]; exact hbusy⟩
  · exact ⟨.inr (.inr ⟨u, hi, hpoint, by rw [hrec]; rfl⟩), fun _ => by rw [hrec]; rfl⟩

/-- Settles O42: of the foreground's masks only I4's holds bit 3. -/
theorem onlyInitialiseDropsAPendingEvent : Obligations.OnlyInitialiseDropsAPendingEvent := by
  intro i s t hi h hpoint
  obtain ⟨-, heffect⟩ := exec_host_cases hi h
  cases heffect with
  | i4 _ _ hclear => exact absurd hclear hpoint
  | i5 | s3 | a1 | a2 | f1 => simp
  | _ => rfl

end Sys2Proof.Machine

/-! PROOFS. The dividers (R72), the canonical form of a buffer (R45), the reset values (R39), and the stores of a receive
event (R47). -/

namespace Sys2Proof.Machine

/-- `k` tenths of half the divided frequency, as one quotient of naturals. -/
theorem floor_tenths_eq_div (f k : ℕ) : ⌊(f : ℚ) / 75000 / 2 * k / 10⌋₊ = f * k / 1500000 := by
  have hquotient : (f : ℚ) / 75000 / 2 * k / 10 = ((f * k : ℕ) : ℚ) / ((1500000 : ℕ) : ℚ) := by
    push_cast
    ring
  rw [hquotient, Nat.floor_div_eq_div]

/-- Settles O4: each divider is one floor of a quotient of naturals. -/
theorem dividersAreFloors : Obligations.DividersAreFloors := by
  refine ⟨fun f => ⟨?low, ?high⟩, by decide⟩
  case low => exact_mod_cast (floor_tenths_eq_div f 7).symm
  case high => exact_mod_cast (floor_tenths_eq_div f 13).symm

/-- Settles O52: each is the reset state's own literal. -/
theorem resetValuesOfTheSpec : Obligations.ResetValuesOfTheSpec :=
  ⟨rfl, rfl, rfl, rfl, rfl, rfl, rfl, rfl⟩

/-! ### The canonical form -/

theorem Memory.wfFrom_cons_iff {lo a : Nat} {b : Byte} {m : Memory} :
    Memory.wfFrom lo ((a, b) :: m) = true ↔ lo ≤ a ∧ b ≠ Memory.unlisted ∧ m.wfFrom (a + 1) = true := by
  simp [Memory.wfFrom, and_assoc]

theorem Memory.read_head (a : Nat) (b : Byte) (m : Memory) : Memory.read ((a, b) :: m) a = b := by
  rw [Memory.read_cons, if_pos rfl]

/-- The first index of a form that another form reads alike is not below the other's. -/
theorem Memory.head_le_head {lo a a' : Nat} {b b' : Byte} {m m' : Memory} (h : Memory.wfFrom lo ((a, b) :: m) = true)
    (h' : Memory.wfFrom lo ((a', b') :: m') = true)
    (hread : ∀ i, Memory.read ((a, b) :: m) i = Memory.read ((a', b') :: m') i) : a' ≤ a := by
  obtain ⟨-, hb, -⟩ := Memory.wfFrom_cons_iff.mp h
  obtain ⟨-, hb', hm'⟩ := Memory.wfFrom_cons_iff.mp h'
  by_contra hlt
  have hunlisted : Memory.read ((a', b') :: m') a = Memory.unlisted :=
    Memory.read_below (Memory.wfFrom_cons_iff.mpr ⟨le_rfl, hb', hm'⟩) (Nat.lt_of_not_le hlt)
  exact hb (by rw [← Memory.read_head a b m, hread, hunlisted])

/-- An empty form reads alike to no other: the other's first entry is listed. -/
theorem Memory.cons_ne_unlisted {lo a : Nat} {b : Byte} {m : Memory} (h : Memory.wfFrom lo ((a, b) :: m) = true) :
    Memory.read ((a, b) :: m) a ≠ Memory.unlisted := by
  obtain ⟨-, hb, -⟩ := Memory.wfFrom_cons_iff.mp h
  rwa [Memory.read_head]

theorem Memory.eq_of_read_eq {m₁ m₂ : Memory} {lo : Nat} (h₁ : m₁.wfFrom lo = true) (h₂ : m₂.wfFrom lo = true)
    (hread : ∀ i, m₁.read i = m₂.read i) : m₁ = m₂ := by
  induction m₁ generalizing m₂ lo with
  | nil =>
    cases m₂ with
    | nil => rfl
    | cons e m₂ => exact absurd (hread e.1).symm (Memory.cons_ne_unlisted h₂)
  | cons e m₁ ih =>
    obtain ⟨a, b⟩ := e
    cases m₂ with
    | nil => exact absurd (hread a) (Memory.cons_ne_unlisted h₁)
    | cons e' m₂ =>
      obtain ⟨a', b'⟩ := e'
      obtain rfl : a = a' :=
        le_antisymm (Memory.head_le_head h₂ h₁ fun i => (hread i).symm) (Memory.head_le_head h₁ h₂ hread)
      obtain rfl : b = b' := by rw [← Memory.read_head a b m₁, hread, Memory.read_head]
      obtain ⟨-, -, hm₁⟩ := Memory.wfFrom_cons_iff.mp h₁
      obtain ⟨-, -, hm₂⟩ := Memory.wfFrom_cons_iff.mp h₂
      have htail : ∀ i, Memory.read m₁ i = Memory.read m₂ i := by
        intro i
        by_cases hi : a = i
        · subst hi
          rw [Memory.read_below hm₁ (Nat.lt_succ_self a), Memory.read_below hm₂ (Nat.lt_succ_self a)]
        · have hcons := hread i
          rwa [Memory.read_cons, Memory.read_cons, if_neg hi, if_neg hi] at hcons
      rw [ih hm₁ hm₂ htail]

/-- Settles O51: two forms that read alike start at the same index with the same byte, and so on. -/
theorem memoryFormIsCanonical : Obligations.MemoryFormIsCanonical :=
  fun _ _ h₁ h₂ hread => Memory.eq_of_read_eq h₁ h₂ hread

/-! ### The store of a receive event -/

/-- What a receive event leaves in `data_in`, and where it stores nothing. -/
theorem receive_dataIn {i : Instr} {s t : State} {m : Memory} (hi : i = .rxdataAck ∨ i = .rxdataNack)
    (hm : s.record.dataIn = some m) (h : exec i s = .next t) :
    (s.record.position < s.record.inLength ∧ t.record.dataIn = some (m.write s.record.position s.datRx)) ∨
    (s.record.inLength ≤ s.record.position ∧ t.record.dataIn = some m) := by
  have hevent : i.isEvent = true := by obtain rfl | rfl := hi <;> rfl
  obtain ⟨hready, -⟩ := exec_event_next hevent h
  obtain rfl | rfl := hi
  case inl =>
    obtain ⟨hstore, hfull⟩ := dataReceivedAcknowledged s hready
    obtain hend | hpos := le_or_gt s.record.inLength s.record.position
    · obtain rfl := next_unique (hfull hend) h
      exact .inr ⟨hend, hm⟩
    obtain ⟨hlast, hmore⟩ := hstore m hpos hm
    obtain hlen | hlen := le_or_gt s.record.inLength (s.record.position + 2)
    · obtain rfl := next_unique (hlast hlen) h
      exact .inl ⟨hpos, rfl⟩
    · obtain rfl := next_unique (hmore hlen) h
      exact .inl ⟨hpos, rfl⟩
  case inr =>
    obtain ⟨hnone, hstore, hrefused⟩ := dataReceivedNotAcknowledged s hready
    obtain hend | hpos := le_or_gt s.record.inLength s.record.position
    · by_cases hlen : s.record.inLength = 0
      · obtain rfl := next_unique (hnone hlen) h
        exact .inr ⟨hend, hm⟩
      · obtain rfl := next_unique (hrefused hlen hend) h
        exact .inr ⟨hend, hm⟩
    · obtain rfl := next_unique (hstore m hpos hm) h
      exact .inl ⟨hpos, rfl⟩

theorem Memory.read_write {m : Memory} (h : m.wf = true) (i j : Nat) (v : Byte) :
    (m.write i v).read j = if i = j then v else m.read j :=
  Memory.read_writeFrom h

theorem wf_of_bufferKept {n : Nat} {m : Memory} (h : bufferKept n (some m) = true) : m.wf = true :=
  (Bool.and_eq_true_iff.mp h).1

/-- Settles O26: the event writes one byte at the cursor, or leaves the buffer as it was. -/
theorem receiveEventsStoreOneByte : Obligations.ReceiveEventsStoreOneByte := by
  intro i s t m hi hkept hm h
  have hwf : m.wf = true := wf_of_bufferKept (hm ▸ hkept.inKept)
  obtain ⟨hpos, hstored⟩ | ⟨hend, hsame⟩ := receive_dataIn hi hm h
  · refine ⟨_, hstored, fun a ha => ?other, fun _ => ?cursor, fun hend => absurd hend (Nat.not_le.mpr hpos)⟩
    case other => rw [Memory.read_write hwf, if_neg ha.symm]
    case cursor => rw [Memory.read_write hwf, if_pos rfl]
  · exact ⟨m, hsame, fun _ _ => rfl, fun hpos => absurd hend (Nat.not_le.mpr hpos), fun _ => rfl⟩

end Sys2Proof.Machine

/-! PROOFS. An event step is a function of the record, the received byte and `CON` (R84), and tests neither `busy` nor
`status` (R85). -/

namespace Sys2Proof.Machine

/-! ### What a row does, apart from the state it does it in -/

/-- What a row leaves in the record and in `DAT`, what it appends to the trace, and what it ends in: a fault, or a set and a
clear mask. -/
structure RowEffect where
  record : TransactionRecord
  sent : Option Byte
  items : List TraceItem
  ending : Fault ⊕ (Byte × Byte)

/-- The effect in a state. -/
def RowEffect.on (e : RowEffect) (s : State) : RowResult :=
  let t := { s with record := e.record, datTx := e.sent.getD s.datTx, trace := s.trace ++ e.items }
  match e.ending with
  | .inl f => .raised t f
  | .inr (set, clr) => .done t set clr

/-- The row of an event is one effect in every state with this record and this received byte. -/
def UniformRow (i : Instr) (r : TransactionRecord) (rx : Byte) : Prop :=
  ∃ e : RowEffect, ∀ s : State, s.record = r → s.datRx = rx → rowOf i s = e.on s

/-- A row that writes the record and two masks alone. -/
theorem uniformRow_of_done {i : Instr} {r : TransactionRecord} {rx : Byte} (r' : TransactionRecord) {set clr : Byte}
    (h : ∀ s : State, s.record = r → rowOf i s = .done { s with record := r' } set clr) : UniformRow i r rx :=
  ⟨⟨r', none, [], .inr (set, clr)⟩, fun s hs _ => by rw [h s hs]; simp [RowEffect.on]⟩

/-- A row that faults, with the record written before. -/
theorem uniformRow_of_raised {i : Instr} {r : TransactionRecord} {rx : Byte} (r' : TransactionRecord) {f : Fault}
    (h : ∀ s : State, s.record = r → rowOf i s = .raised { s with record := r' } f) : UniformRow i r rx :=
  ⟨⟨r', none, [], .inl f⟩, fun s hs _ => by rw [h s hs]; simp [RowEffect.on]⟩

/-- Whether a send is admitted, and which byte it sends, the record alone says. -/
theorem sendNext_uniform (r : TransactionRecord) :
    (∃ v, ∀ s : State, s.record = r → s.sendNext = .ok { s with
      record := { r with position := r.position + 1 }, datTx := v
      trace := s.trace ++ [.memRead r.position v, .datWrite v] }) ∨
    ∃ f, ∀ s : State, s.record = r → s.sendNext = .error f := by
  by_cases h : r.dataOut = none ∨ r.outLength ≤ r.position
  · refine .inr ⟨.bufferBounds .out r.position r.outLength, ?_⟩
    rintro s rfl
    exact sendNext_error h
  · obtain ⟨hbound, hpos⟩ := not_or.mp h
    obtain ⟨m, hm⟩ := Option.ne_none_iff_exists'.mp hbound
    refine .inl ⟨m.read r.position, ?_⟩
    rintro s rfl
    exact sendNext_ok (Nat.lt_of_not_le hpos) hm

/-- So with a store, with the received byte. -/
theorem storeNext_uniform (r : TransactionRecord) (rx : Byte) :
    (∃ r' items, ∀ s : State, s.record = r → s.datRx = rx →
      s.storeNext = .ok { s with record := r', trace := s.trace ++ items }) ∨
    ∃ f, ∀ s : State, s.record = r → s.storeNext = .error f := by
  by_cases h : r.dataIn = none ∨ r.inLength ≤ r.position
  · refine .inr ⟨.bufferBounds .in r.position r.inLength, ?_⟩
    rintro s rfl
    exact storeNext_error h
  · obtain ⟨hbound, hpos⟩ := not_or.mp h
    obtain ⟨m, hm⟩ := Option.ne_none_iff_exists'.mp hbound
    refine .inl ⟨{ r with dataIn := some (m.write r.position rx), position := r.position + 1 },
      [.datRead rx, .memWrite r.position rx], ?_⟩
    rintro s rfl rfl
    exact storeNext_ok (Nat.lt_of_not_le hpos) hm

/-- So with the look-ahead of 0x50 after a store that left this record and these items. -/
theorem lookAhead_uniform (r : TransactionRecord) (items : List TraceItem) :
    ∃ e : RowEffect, ∀ s : State, lookAhead { s with record := r, trace := s.trace ++ items } = e.on s := by
  obtain hlast | hmore := le_or_gt r.inLength (r.position + 1)
  · exact ⟨⟨{ r with busy := false }, none, items, .inr (0x00#8, SI ||| AA)⟩, fun s => lookAhead_of_last hlast⟩
  · exact ⟨⟨r, none, items, .inr (AA, SI)⟩, fun s => lookAhead_of_more hmore⟩

/-- Every row is an effect that the record and the received byte determine (R84). -/
theorem rowOf_uniform (i : Instr) (r : TransactionRecord) (rx : Byte) : UniformRow i r rx := by
  cases i with
  | slarAck =>
    exact uniformRow_of_done r (set := (slarAckMasks r.inLength).1) (clr := (slarAckMasks r.inLength).2)
      (by rintro s rfl; rfl)
  | arbLost | slaveAddr | noState
  | initialise | isInitialized | submitTransaction | wait | timeoutAbort | returnStatus =>
    exact uniformRow_of_done r (by rintro s rfl; rfl)
  | busError => exact uniformRow_of_done { r with status := .busError } (by rintro s rfl; rfl)
  | slawNack | slarNack =>
    exact uniformRow_of_done { r with busy := false, status := .deviceNotFound } (by rintro s rfl; rfl)
  | txdataNack => exact uniformRow_of_done { r with busy := false } (by rintro s rfl; rfl)
  | unknown code => exact uniformRow_of_raised r (by rintro s rfl; rfl)
  | start =>
    exact ⟨⟨r, some (addrByte r), [.datWrite (addrByte r)], .inr (0x00#8, SI)⟩, by rintro s rfl -; rfl⟩
  | repStart =>
    exact ⟨⟨{ r with operation := .read }, some (addrByte { r with operation := .read }),
      [.datWrite (addrByte { r with operation := .read })], .inr (0x00#8, SI)⟩, by rintro s rfl -; rfl⟩
  | slawAck =>
    by_cases hlen : r.outLength = 0
    · exact uniformRow_of_done { r with busy := false, status := .success }
        (by rintro s rfl; exact rowOf_slawAck_of_zero hlen)
    obtain ⟨v, hv⟩ | ⟨f, hf⟩ := sendNext_uniform r
    · refine ⟨⟨{ r with position := r.position + 1 }, some v, [.memRead r.position v, .datWrite v],
        .inr (0x00#8, SI ||| STA)⟩, ?_⟩
      rintro s rfl -
      exact rowOf_slawAck_of_sendNext hlen (hv s rfl)
    · exact uniformRow_of_raised r (by rintro s rfl; exact rowOf_slawAck_of_refused hlen (hf s rfl))
  | txdataAck =>
    obtain hend | hpos := le_or_gt r.outLength r.position
    · cases hrep : r.repeated
      · exact uniformRow_of_done { r with busy := false } (by rintro s rfl; exact rowOf_txdataAck_of_last hend hrep)
      · exact uniformRow_of_done { r with operation := .read, position := 0 }
          (by rintro s rfl; exact rowOf_txdataAck_of_repeated hend hrep)
    obtain ⟨v, hv⟩ | ⟨f, hf⟩ := sendNext_uniform r
    · refine ⟨⟨{ r with position := r.position + 1 }, some v, [.memRead r.position v, .datWrite v],
        .inr (0x00#8, SI)⟩, ?_⟩
      rintro s rfl -
      exact rowOf_txdataAck_of_sendNext hpos (hv s rfl)
    · exact uniformRow_of_raised r (by rintro s rfl; exact rowOf_txdataAck_of_refused hpos (hf s rfl))
  | rxdataAck =>
    obtain hend | hpos := le_or_gt r.inLength r.position
    · obtain ⟨e, he⟩ := lookAhead_uniform r []
      refine ⟨e, ?_⟩
      rintro s rfl -
      rw [rowOf_rxdataAck_of_full hend, ← he, List.append_nil]
    obtain ⟨r', items, hstore⟩ | ⟨f, hf⟩ := storeNext_uniform r rx
    · obtain ⟨e, he⟩ := lookAhead_uniform r' items
      refine ⟨e, ?_⟩
      rintro s rfl hrx
      exact (rowOf_rxdataAck_of_storeNext hpos (hstore s rfl hrx)).trans (he s)
    · exact uniformRow_of_raised r (by rintro s rfl; exact rowOf_rxdataAck_of_refused hpos (hf s rfl))
  | rxdataNack =>
    by_cases hlen : r.inLength = 0
    · exact uniformRow_of_done { r with busy := false } (by rintro s rfl; exact rowOf_rxdataNack_of_zero hlen)
    obtain ⟨r', items, hstore⟩ | ⟨f, hf⟩ := storeNext_uniform { r with busy := false } rx
    · refine ⟨⟨r', none, items, .inr (STO, SI)⟩, ?_⟩
      rintro s rfl hrx
      exact rowOf_rxdataNack_of_storeNext hlen (hstore (s.setBusy false) rfl hrx)
    · exact uniformRow_of_raised { r with busy := false }
        (by rintro s rfl; exact rowOf_rxdataNack_of_refused hlen (hf (s.setBusy false) rfl))

/-- The frame applies the same effect alike to two states with the same `CON` and latch. -/
theorem finishEvent_effect_agrees (e : RowEffect) {s₁ s₂ : State} (hcon : s₁.con = s₂.con) (hfatal : s₁.fatal = s₂.fatal) :
    (finishEvent (e.on s₁)).record = (finishEvent (e.on s₂)).record ∧
    (finishEvent (e.on s₁)).con = (finishEvent (e.on s₂)).con ∧
    (finishEvent (e.on s₁)).fatal = (finishEvent (e.on s₂)).fatal ∧
    ((finishEvent (e.on s₁)).datTx = (finishEvent (e.on s₂)).datTx ∨
      ((finishEvent (e.on s₁)).datTx = s₁.datTx ∧ (finishEvent (e.on s₂)).datTx = s₂.datTx)) ∧
    ∃ items, (finishEvent (e.on s₁)).trace = s₁.trace ++ items ∧ (finishEvent (e.on s₂)).trace = s₂.trace ++ items := by
  obtain ⟨r, sent, items, f | ⟨set, clr⟩⟩ := e
  · refine ⟨rfl, hcon, rfl, ?_, items ++ [.fault f], ?_, ?_⟩
    · cases sent with
      | none => exact .inr ⟨rfl, rfl⟩
      | some v => exact .inl rfl
    · simp [RowEffect.on, finishEvent]
    · simp [RowEffect.on, finishEvent]
  · refine ⟨rfl, ?_, hfatal, ?_, items ++ [.conSet set, .conClr clr], ?_, ?_⟩
    · simp [RowEffect.on, finishEvent, hcon]
    · cases sent with
      | none => exact .inr ⟨rfl, rfl⟩
      | some v => exact .inl rfl
    · simp [RowEffect.on, finishEvent]
    · simp [RowEffect.on, finishEvent]

/-- Settles O28: the two states' rows are one effect, and the frame applies it alike. -/
theorem eventDependsOnlyOnItsInputs : Obligations.EventDependsOnlyOnItsInputs := by
  intro i s₁ s₂ t₁ t₂ hi hrecord hrx hcon h₁ h₂
  obtain ⟨⟨-, -, hfatal₁⟩, code, hcode, rfl⟩ := exec_event_next hi h₁
  obtain ⟨⟨-, -, hfatal₂⟩, code', hcode', rfl⟩ := exec_event_next hi h₂
  obtain rfl : code = code' := Option.some.inj (hcode.symm.trans hcode')
  obtain ⟨e, he⟩ := rowOf_uniform i s₂.record s₂.datRx
  rw [he (s₁.emit (.statRead code)) hrecord hrx, he (s₂.emit (.statRead code)) rfl rfl]
  obtain ⟨hrec, hcon', hfatal, hdat, items, htrace₁, htrace₂⟩ :=
    finishEvent_effect_agrees e (s₁ := s₁.emit (.statRead code)) (s₂ := s₂.emit (.statRead code)) hcon
      (hfatal₁.trans hfatal₂.symm)
  exact ⟨hrec, hcon', hfatal, hdat, .statRead code :: items, by simp [htrace₁], by simp [htrace₂]⟩

/-! ### Other values of `busy` and `status` -/

/-- The state with other values of `busy` and `status`. -/
def State.withFlags (s : State) (b : Bool) (v : Status) : State :=
  { s with record := { s.record with busy := b, status := v } }

/-- What a row ended in, with other values of `busy` and `status`. -/
def RowResult.withFlags (b : Bool) (v : Status) : RowResult → RowResult
  | .done s set clr => .done (s.withFlags b v) set clr
  | .raised s f => .raised (s.withFlags b v) f

theorem finishEvent_withFlags (r : RowResult) (b : Bool) (v : Status) :
    finishEvent (r.withFlags b v) = (finishEvent r).withFlags b v := by
  cases r <;> rfl

theorem sendNext_withFlags {s t : State} (h : s.sendNext = .ok t) (b : Bool) (v : Status) :
    (s.withFlags b v).sendNext = .ok (t.withFlags b v) := by
  obtain ⟨m, hm, hpos, hsend⟩ | ⟨-, hsend⟩ := sendNext_cases s
  · obtain rfl := Except.ok.inj (hsend.symm.trans h)
    exact sendNext_ok (s := s.withFlags b v) hpos hm
  · exact nomatch hsend.symm.trans h

theorem sendNext_withFlags_error {s : State} {f : Fault} (h : s.sendNext = .error f) (b : Bool) (v : Status) :
    (s.withFlags b v).sendNext = .error f := by
  obtain ⟨m, -, -, hsend⟩ | ⟨href, hsend⟩ := sendNext_cases s
  · exact nomatch hsend.symm.trans h
  · obtain rfl := Except.error.inj (hsend.symm.trans h)
    exact sendNext_error (s := s.withFlags b v) href

theorem storeNext_withFlags {s t : State} (h : s.storeNext = .ok t) (b : Bool) (v : Status) :
    (s.withFlags b v).storeNext = .ok (t.withFlags b v) := by
  obtain ⟨m, hm, hpos, hstore⟩ | ⟨-, hstore⟩ := storeNext_cases s
  · obtain rfl := Except.ok.inj (hstore.symm.trans h)
    exact storeNext_ok (s := s.withFlags b v) hpos hm
  · exact nomatch hstore.symm.trans h

theorem storeNext_withFlags_error {s : State} {f : Fault} (h : s.storeNext = .error f) (b : Bool) (v : Status) :
    (s.withFlags b v).storeNext = .error f := by
  obtain ⟨m, -, -, hstore⟩ | ⟨href, hstore⟩ := storeNext_cases s
  · exact nomatch hstore.symm.trans h
  · obtain rfl := Except.error.inj (hstore.symm.trans h)
    exact storeNext_error (s := s.withFlags b v) href

theorem lookAhead_withFlags (s : State) (b : Bool) (v : Status) :
    ∃ b', lookAhead (s.withFlags b v) = (lookAhead s).withFlags b' v := by
  obtain hlast | hmore := le_or_gt s.record.inLength (s.record.position + 1)
  · exact ⟨false, by rw [lookAhead_of_last hlast, lookAhead_of_last (s := s.withFlags b v) hlast]; rfl⟩
  · exact ⟨b, by rw [lookAhead_of_more hmore, lookAhead_of_more (s := s.withFlags b v) hmore]; rfl⟩

/-- With other values of `busy` and `status` every row does the same, up to their values at its end (R85). -/
theorem rowOf_withFlags (i : Instr) (s : State) (b : Bool) (v : Status) :
    ∃ b' v', rowOf i (s.withFlags b v) = (rowOf i s).withFlags b' v' := by
  cases i with
  | start | repStart | arbLost | slarAck | slaveAddr | noState | unknown
  | initialise | isInitialized | submitTransaction | wait | timeoutAbort | returnStatus => exact ⟨b, v, rfl⟩
  | busError => exact ⟨b, .busError, rfl⟩
  | slawNack | slarNack => exact ⟨false, .deviceNotFound, rfl⟩
  | txdataNack => exact ⟨false, v, rfl⟩
  | slawAck =>
    by_cases hlen : s.record.outLength = 0
    · exact ⟨false, .success, by
        rw [rowOf_slawAck_of_zero hlen, rowOf_slawAck_of_zero (s := s.withFlags b v) hlen]; rfl⟩
    refine ⟨b, v, ?_⟩
    rcases hsend : s.sendNext with f | t
    · rw [rowOf_slawAck_of_refused hlen hsend,
        rowOf_slawAck_of_refused (s := s.withFlags b v) hlen (sendNext_withFlags_error hsend b v)]; rfl
    · rw [rowOf_slawAck_of_sendNext hlen hsend,
        rowOf_slawAck_of_sendNext (s := s.withFlags b v) hlen (sendNext_withFlags hsend b v)]; rfl
  | txdataAck =>
    obtain hend | hpos := le_or_gt s.record.outLength s.record.position
    · cases hrep : s.record.repeated
      · exact ⟨false, v, by
          rw [rowOf_txdataAck_of_last hend hrep, rowOf_txdataAck_of_last (s := s.withFlags b v) hend hrep]; rfl⟩
      · exact ⟨b, v, by
          rw [rowOf_txdataAck_of_repeated hend hrep, rowOf_txdataAck_of_repeated (s := s.withFlags b v) hend hrep]; rfl⟩
    refine ⟨b, v, ?_⟩
    rcases hsend : s.sendNext with f | t
    · rw [rowOf_txdataAck_of_refused hpos hsend,
        rowOf_txdataAck_of_refused (s := s.withFlags b v) hpos (sendNext_withFlags_error hsend b v)]; rfl
    · rw [rowOf_txdataAck_of_sendNext hpos hsend,
        rowOf_txdataAck_of_sendNext (s := s.withFlags b v) hpos (sendNext_withFlags hsend b v)]; rfl
  | rxdataAck =>
    obtain hend | hpos := le_or_gt s.record.inLength s.record.position
    · obtain ⟨b', hlook⟩ := lookAhead_withFlags s b v
      exact ⟨b', v, by
        rw [rowOf_rxdataAck_of_full hend, rowOf_rxdataAck_of_full (s := s.withFlags b v) hend, hlook]⟩
    rcases hstore : s.storeNext with f | t
    · exact ⟨b, v, by
        rw [rowOf_rxdataAck_of_refused hpos hstore,
          rowOf_rxdataAck_of_refused (s := s.withFlags b v) hpos (storeNext_withFlags_error hstore b v)]; rfl⟩
    · obtain ⟨b', hlook⟩ := lookAhead_withFlags t b v
      exact ⟨b', v, by
        rw [rowOf_rxdataAck_of_storeNext hpos hstore,
          rowOf_rxdataAck_of_storeNext (s := s.withFlags b v) hpos (storeNext_withFlags hstore b v), hlook]⟩
  | rxdataNack =>
    refine ⟨false, v, ?_⟩
    by_cases hlen : s.record.inLength = 0
    · rw [rowOf_rxdataNack_of_zero hlen, rowOf_rxdataNack_of_zero (s := s.withFlags b v) hlen]; rfl
    rcases hstore : (s.setBusy false).storeNext with f | t
    · rw [rowOf_rxdataNack_of_refused hlen hstore,
        rowOf_rxdataNack_of_refused (s := s.withFlags b v) hlen (storeNext_withFlags_error hstore false v)]; rfl
    · rw [rowOf_rxdataNack_of_storeNext hlen hstore,
        rowOf_rxdataNack_of_storeNext (s := s.withFlags b v) hlen (storeNext_withFlags hstore false v)]; rfl

/-- Settles O29: the step from the other values does what it does from these, up to `busy` and `status` at the end. -/
theorem eventsDoNotTestBusyOrStatus : Obligations.EventsDoNotTestBusyOrStatus := by
  intro i s t b v hi h
  obtain ⟨hready, code, hcode, rfl⟩ := exec_event_next hi h
  obtain ⟨b', v', hrow⟩ := rowOf_withFlags i (s.emit (.statRead code)) b v
  refine ⟨(finishEvent (rowOf i (s.emit (.statRead code)))).withFlags b' v', ?step, rfl⟩
  case step =>
    have hready' : EventReady (s.withFlags b v) := hready
    calc exec i (s.withFlags b v) = .next (finishEvent (rowOf i ((s.withFlags b v).emit (.statRead code)))) := by
          rw [exec_event hcode, eventStep_ready hready']
      _ = .next ((finishEvent (rowOf i (s.emit (.statRead code)))).withFlags b' v') := by
          rw [← finishEvent_withFlags, ← hrow]; rfl

end Sys2Proof.Machine

/-! PROOFS. Whole transactions: a write and a read, every byte acknowledged (R138). -/

namespace Sys2Proof.Machine

/-! ### One event after another -/

/-- The next event of the transaction is awaited: a handler is registered and nothing is pending. -/
structure State.Awaiting (s : State) : Prop where
  noFault : s.fatal = none
  registered : s.handlerRegistered = true
  notPending : s.con.getLsbD 3 = false

theorem State.Awaiting.raised {s : State} (h : s.Awaiting) (code rx : Byte) (rest : List Turn) :
    EventReady (s.raised code rx rest) :=
  ⟨h.registered, by simp [State.raised], h.noFault⟩

/-- The state after an event that is raised here and served without a fault, before the next turns. -/
def State.served (s : State) (code rx : Byte) (rest : List Turn) (set clr : Byte) (items : List TraceItem)
    (r : TransactionRecord) (tx : Byte) : State :=
  { afterEvent (s.raised code rx rest) code set clr items with record := r, datTx := tx }

theorem served_getLsbD (s : State) (code rx : Byte) (rest : List Turn) (set clr : Byte) (items : List TraceItem)
    (r : TransactionRecord) (tx : Byte) {k : Nat} (hk : k < 8) :
    (s.served code rx rest set clr items r tx).con.getLsbD k =
      ((s.con.getLsbD k || (0x08#8 : Byte).getLsbD k || set.getLsbD k) && !clr.getLsbD k) := by
  simp [State.served, afterEvent, State.raised, hk]

theorem State.Awaiting.served {s : State} (h : s.Awaiting) (code rx : Byte) (rest : List Turn) {set clr : Byte}
    (hclr : clr.getLsbD 3 = true) (items : List TraceItem) (r : TransactionRecord) (tx : Byte) :
    (s.served code rx rest set clr items r tx).Awaiting :=
  ⟨h.noFault, h.registered, by rw [served_getLsbD _ _ _ _ _ _ _ _ _ (by decide), hclr, Bool.not_true, Bool.and_false]⟩

/-- The two turns that deliver one event. -/
theorem run_served {s : State} {code rx : Byte} {rest : List Turn} {i : Instr} {set clr : Byte} {items : List TraceItem}
    {r : TransactionRecord} {tx : Byte} (h : s.Awaiting) (hi : decodeByte code = i)
    (ha : s.agenda = .ctrl (.raise code rx) :: .isr :: rest)
    (hexec : exec i (s.raised code rx rest) = .next (s.served code rx rest set clr items r tx)) :
    Sys2Proof.core.run 2 s = .next (s.served code rx rest set clr items r tx) :=
  run_deliver code rx rest hi h.noFault h.notPending ha hexec

theorem run_trans {a b : Nat} {s t : State} {o : Host.Outcome State Fault Refusal}
    (hab : Sys2Proof.core.run a s = .next t) (hb : Sys2Proof.core.run b t = o) : Sys2Proof.core.run (a + b) s = o :=
  (run_add a b s t hab).trans hb

/-- The start: the address byte is written, and the record is as it was. -/
theorem run_start {s : State} {rx : Byte} {rest : List Turn} (h : s.Awaiting)
    (ha : s.agenda = .ctrl (.raise 0x08#8 rx) :: .isr :: rest) :
    Sys2Proof.core.run 2 s = .next (s.served 0x08#8 rx rest 0x00#8 0x08#8 [.datWrite (addrByte s.record)] s.record
      (addrByte s.record)) :=
  run_served h (by decide) ha (startSendsAddressByte _ (h.raised 0x08#8 rx rest))

/-! ### A write -/

theorem datWrites_append (a b : List TraceItem) : datWrites (a ++ b) = datWrites a ++ datWrites b :=
  List.filterMap_append

/-- From `s₀` on, the address byte and the first `k` bytes of the buffer have been written to `DAT`, and of the record only
the cursor has moved. -/
structure BytesSent (bytes : List Byte) (s₀ : State) (k : Nat) (s : State) : Prop where
  awaiting : s.Awaiting
  record : s.record = { s₀.record with position := k }
  trace : ∃ items, s.trace = s₀.trace ++ items ∧ datWrites items = addrByte s₀.record :: bytes.take k

/-- The state after the event with this code has sent byte `k`. -/
def State.servedByte (s : State) (code rx : Byte) (rest : List Turn) (clr : Byte) (k : Nat) (v : Byte) : State :=
  s.served code rx rest 0x00#8 clr [.memRead k v, .datWrite v] { s.record with position := k + 1 } v

theorem BytesSent.next {bytes : List Byte} {s₀ s : State} {k : Nat} (h : BytesSent bytes s₀ k s) (hk : k < bytes.length)
    (code rx : Byte) (rest : List Turn) {clr : Byte} (hclr : clr.getLsbD 3 = true) :
    BytesSent bytes s₀ (k + 1) (s.servedByte code rx rest clr k bytes[k]) := by
  obtain ⟨items, htrace, hwrites⟩ := h.trace
  refine ⟨h.awaiting.served _ _ _ hclr _ _ _, by rw [State.servedByte, State.served, h.record],
    items ++ [.statRead code, .memRead k bytes[k], .datWrite bytes[k], .conSet 0x00#8, .conClr clr], ?appended, ?written⟩
  case appended => simp [State.servedByte, State.served, afterEvent, State.raised, htrace]
  case written =>
    rw [datWrites_append, hwrites, List.take_succ_eq_append_getElem hk]
    rfl

/-- What the caller's bytes in the record's buffer say of a state in the middle of the write. -/
theorem BytesSent.buffer {bytes : List Byte} {s₀ s : State} {k : Nat} {m : Memory} (h : BytesSent bytes s₀ k s)
    (hk : k < bytes.length) (hm : s₀.record.dataOut = some m) (hbytes : ∀ j, m.read j = bytes.getD j 0x00#8)
    (hlen : s₀.record.outLength = bytes.length) :
    s.record.dataOut = some m ∧ s.record.position = k ∧ s.record.outLength = bytes.length ∧ m.read k = bytes[k] := by
  refine ⟨by rw [h.record]; exact hm, by rw [h.record], by rw [h.record]; exact hlen, ?_⟩
  rw [hbytes, List.getD_eq_getElem _ _ hk]

/-- The address result sends the first byte. -/
theorem run_sendFirst {bytes : List Byte} {s₀ s : State} {m : Memory} {rx : Byte} {rest : List Turn}
    (h : BytesSent bytes s₀ 0 s) (hk : 0 < bytes.length) (hm : s₀.record.dataOut = some m)
    (hbytes : ∀ j, m.read j = bytes.getD j 0x00#8) (hlen : s₀.record.outLength = bytes.length)
    (ha : s.agenda = .ctrl (.raise 0x18#8 rx) :: .isr :: rest) :
    ∃ t, Sys2Proof.core.run 2 s = .next t ∧ BytesSent bytes s₀ 1 t ∧ t.agenda = rest := by
  obtain ⟨hbound, hpos, hlength, hbyte⟩ := h.buffer hk hm hbytes hlen
  obtain ⟨-, hsend, -⟩ := writeAddressAcknowledged _ (h.awaiting.raised 0x18#8 rx rest)
  have hexec : exec .slawAck (s.raised 0x18#8 rx rest) = .next (s.servedByte 0x18#8 rx rest 0x28#8 0 bytes[0]) := by
    rw [hsend m (hlength ▸ hk.ne') hbound (hpos ▸ hlength ▸ hk)]
    simp only [State.servedByte, State.served, State.raised, hpos, hbyte]
  exact ⟨_, run_served h.awaiting (by decide) ha hexec, h.next hk 0x18#8 rx rest (by decide), rfl⟩

/-- A byte acknowledged sends the next one. -/
theorem run_sendNext {bytes : List Byte} {s₀ s : State} {k : Nat} {m : Memory} {rx : Byte} {rest : List Turn}
    (h : BytesSent bytes s₀ k s) (hk : k < bytes.length) (hm : s₀.record.dataOut = some m)
    (hbytes : ∀ j, m.read j = bytes.getD j 0x00#8) (hlen : s₀.record.outLength = bytes.length)
    (ha : s.agenda = .ctrl (.raise 0x28#8 rx) :: .isr :: rest) :
    ∃ t, Sys2Proof.core.run 2 s = .next t ∧ BytesSent bytes s₀ (k + 1) t ∧ t.agenda = rest := by
  obtain ⟨hbound, hpos, hlength, hbyte⟩ := h.buffer hk hm hbytes hlen
  obtain ⟨-, -, hsend⟩ := dataSentAcknowledged _ (h.awaiting.raised 0x28#8 rx rest)
  have hexec : exec .txdataAck (s.raised 0x28#8 rx rest) = .next (s.servedByte 0x28#8 rx rest 0x08#8 k bytes[k]) := by
    rw [hsend m (hpos ▸ hlength ▸ hk) hbound]
    simp only [State.servedByte, State.served, State.raised, hpos, hbyte]
  exact ⟨_, run_served h.awaiting (by decide) ha hexec, h.next hk 0x28#8 rx rest (by decide), rfl⟩

/-- The bytes after the first, one acknowledge each. -/
theorem run_sendRest {bytes : List Byte} {s₀ s : State} {k j : Nat} {m : Memory} {rest : List (Byte × Byte)}
    (h : BytesSent bytes s₀ k s) (hj : k + j = bytes.length) (hm : s₀.record.dataOut = some m)
    (hbytes : ∀ j, m.read j = bytes.getD j 0x00#8) (hlen : s₀.record.outLength = bytes.length)
    (ha : s.agenda = deliver (List.replicate j (0x28#8, 0x00#8) ++ rest)) :
    ∃ t, Sys2Proof.core.run (2 * j) s = .next t ∧ BytesSent bytes s₀ bytes.length t ∧ t.agenda = deliver rest := by
  induction j generalizing k s with
  | zero => exact ⟨s, rfl, hj ▸ h, ha⟩
  | succ j ih =>
    obtain ⟨t, hrun, hsent, hagenda⟩ := run_sendNext h (by omega) hm hbytes hlen ha
    obtain ⟨u, hrun', hall, hagenda'⟩ := ih hsent (by omega) hagenda
    have hsteps : 2 * (j + 1) = 2 + 2 * j := by omega
    exact ⟨u, hsteps ▸ run_trans hrun hrun', hall, hagenda'⟩

/-- The acknowledge of the last byte ends the transaction, or starts its read phase. -/
theorem run_sendEnd {bytes : List Byte} {s₀ s : State} {rx : Byte} {rest : List Turn}
    (h : BytesSent bytes s₀ bytes.length s) (hlen : s₀.record.outLength = bytes.length)
    (ha : s.agenda = .ctrl (.raise 0x28#8 rx) :: .isr :: rest) :
    ∃ t, Sys2Proof.core.run 2 s = .next t ∧ t.Awaiting ∧ t.agenda = rest ∧
      (∃ items, t.trace = s₀.trace ++ items ∧ datWrites items = addrByte s₀.record :: bytes) ∧
      (s₀.record.repeated = false → t.record = { s₀.record with position := bytes.length, busy := false } ∧
        t.con.getLsbD 4 = true) ∧
      (s₀.record.repeated = true → t.record = { s₀.record with position := 0, operation := .read } ∧
        t.con.getLsbD 5 = true) := by
  obtain ⟨hswitch, hfinish, -⟩ := dataSentAcknowledged _ (h.awaiting.raised 0x28#8 rx rest)
  have hend : s.record.outLength ≤ s.record.position := by rw [h.record]; exact hlen.le
  have hrep : s.record.repeated = s₀.record.repeated := by rw [h.record]
  obtain ⟨items, htrace, hwrites⟩ := h.trace
  have hwritten : ∀ set : Byte, datWrites (items ++ [.statRead 0x28#8, .conSet set, .conClr 0x08#8]) =
      addrByte s₀.record :: bytes := fun set => by rw [datWrites_append, hwrites, List.take_length]; simp [datWrites]
  cases hr : s₀.record.repeated
  case false =>
    have hexec : exec .txdataAck (s.raised 0x28#8 rx rest) =
        .next (s.served 0x28#8 rx rest 0x10#8 0x08#8 [] { s.record with busy := false } s.datTx) :=
      hfinish hend (hrep.trans hr)
    refine ⟨_, run_served h.awaiting (by decide) ha hexec, h.awaiting.served _ _ _ (by decide) _ _ _, rfl,
      ⟨_, ?appended, hwritten 0x10#8⟩, fun _ => ⟨?record, ?stop⟩, nofun⟩
    case appended => simp [State.served, afterEvent, State.raised, htrace]
    case record => rw [State.served, h.record]
    case stop => simp [State.served, afterEvent]
  case true =>
    have hexec : exec .txdataAck (s.raised 0x28#8 rx rest) =
        .next (s.served 0x28#8 rx rest 0x20#8 0x08#8 [] { s.record with operation := .read, position := 0 } s.datTx) :=
      hswitch hend (hrep.trans hr)
    refine ⟨_, run_served h.awaiting (by decide) ha hexec, h.awaiting.served _ _ _ (by decide) _ _ _, rfl,
      ⟨_, ?appended, hwritten 0x20#8⟩, nofun, fun _ => ⟨?record, ?start⟩⟩
    case appended => simp [State.served, afterEvent, State.raised, htrace]
    case record => rw [State.served, h.record]
    case start => simp [State.served, afterEvent]

/-- The start writes the address byte. -/
theorem run_sendAddress {s : State} {rx : Byte} {rest : List Turn} (bytes : List Byte) (h : s.Awaiting)
    (hpos : s.record.position = 0) (ha : s.agenda = .ctrl (.raise 0x08#8 rx) :: .isr :: rest) :
    ∃ t, Sys2Proof.core.run 2 s = .next t ∧ BytesSent bytes s 0 t ∧ t.agenda = rest := by
  refine ⟨_, run_start h ha, ⟨h.served _ _ _ (by decide) _ _ _, by rw [← hpos]; rfl, ?_⟩, rfl⟩
  exact ⟨[.statRead 0x08#8, .datWrite (addrByte s.record), .conSet 0x00#8, .conClr 0x08#8], rfl, rfl⟩

/-- Settles O59: the start writes the address byte, 0x18 the first byte and each 0x28 the next, until the last 0x28 finds
the cursor at the end. -/
theorem writeTransactionSendsEveryByte : Obligations.WriteTransactionSendsEveryByte := by
  intro s t m hfatal hreg hsi _ hne _ _ hm hbytes hlen hpos hrep hbusy hstatus ha
  have hawaiting : s.Awaiting := ⟨hfatal, hreg, hsi⟩
  obtain ⟨n, hn⟩ := Nat.exists_eq_succ_of_ne_zero (mt List.length_eq_zero_iff.mp hne)
  have hreplicate : List.replicate t.outBuffer.length ((0x28#8, 0x00#8) : Byte × Byte) =
      List.replicate n (0x28#8, 0x00#8) ++ [(0x28#8, 0x00#8)] := by rw [hn, List.replicate_succ']
  rw [hreplicate] at ha
  obtain ⟨s₁, hrun₁, hsent₁, ha₁⟩ := run_sendAddress t.outBuffer hawaiting hpos ha
  obtain ⟨s₂, hrun₂, hsent₂, ha₂⟩ := run_sendFirst hsent₁ (by omega) hm hbytes hlen ha₁
  obtain ⟨s₃, hrun₃, hsent₃, ha₃⟩ := run_sendRest (j := n) hsent₂ (by omega) hm hbytes hlen ha₂
  obtain ⟨u, hrun₄, hu, hua, ⟨items, htrace, hwrites⟩, hlast, hswitch⟩ := run_sendEnd hsent₃ hlen ha₃
  have hsteps : 2 * (t.outBuffer.length + 2) = 2 + (2 + (2 * n + 2)) := by omega
  have hrun : Sys2Proof.core.run (2 * (t.outBuffer.length + 2)) s = .next u := by
    rw [hsteps]
    exact run_trans hrun₁ (run_trans hrun₂ (run_trans hrun₃ hrun₄))
  refine ⟨u, items, hrun, hua, hu.noFault, htrace, hwrites, ?status, hu.notPending, fun hr => ?ended, fun hr => ?restarts⟩
  case status =>
    cases hr : s.record.repeated
    · rw [(hlast hr).1]; exact hstatus
    · rw [(hswitch hr).1]; exact hstatus
  case ended =>
    obtain ⟨hrec, hstop⟩ := hlast (hrep.trans hr)
    rw [hrec]
    exact ⟨rfl, rfl, hstop⟩
  case restarts =>
    obtain ⟨hrec, hsta⟩ := hswitch (hrep.trans hr)
    rw [hrec]
    exact ⟨hbusy, rfl, rfl, hsta⟩

/-! ### A read -/

/-- The first `k` of these bytes stand in `data_in`; with one to come the acknowledge is withdrawn, and `busy` has fallen if
a byte was received before; the stop bit is as it was. -/
structure BytesReceived (bytes : List Byte) (stop : Bool) (k : Nat) (s : State) : Prop where
  awaiting : s.Awaiting
  stop : s.con.getLsbD 4 = stop
  length : s.record.inLength = bytes.length
  cursor : s.record.position = k
  status : s.record.status = .success
  stored : ∃ m, s.record.dataIn = some m ∧ m.wf = true ∧ ∀ j, j < k → m.read j = bytes.getD j 0x00#8
  ack : k + 1 = bytes.length → s.con.getLsbD 2 = false
  busy : s.record.busy = false ↔ k + 1 = bytes.length ∧ 0 < k

/-- A byte stored at the end of those received is received too. -/
theorem read_write_received {bytes : List Byte} {m : Memory} {k j : Nat} (hwf : m.wf = true)
    (hread : ∀ j, j < k → m.read j = bytes.getD j 0x00#8) {v : Byte} (hv : bytes.getD k 0x00#8 = v) (hj : j < k + 1) :
    (m.write k v).read j = bytes.getD j 0x00#8 := by
  rw [Memory.read_write hwf]
  split
  · next hkj => rw [← hkj, hv]
  · exact hread j (by omega)

/-- The result of the read address arms the acknowledge of the first byte, or withholds it if it is the only one. -/
theorem run_slarAck {bytes : List Byte} {s : State} {rx : Byte} {rest : List Turn} {m : Memory} (h : s.Awaiting)
    (hne : 0 < bytes.length) (hlen : s.record.inLength = bytes.length) (hpos : s.record.position = 0)
    (hstatus : s.record.status = .success) (hbusy : s.record.busy = true) (hm : s.record.dataIn = some m)
    (hwf : m.wf = true) (ha : s.agenda = .ctrl (.raise 0x40#8 rx) :: .isr :: rest) :
    ∃ t, Sys2Proof.core.run 2 s = .next t ∧ BytesReceived bytes (s.con.getLsbD 4) 0 t ∧ t.agenda = rest := by
  obtain ⟨-, hsingle, hseveral⟩ := readAddressAcknowledged _ (h.raised 0x40#8 rx rest)
  have hstored : ∃ m, s.record.dataIn = some m ∧ m.wf = true ∧ ∀ j, j < 0 → m.read j = bytes.getD j 0x00#8 :=
    ⟨m, hm, hwf, nofun⟩
  have hbusy' : s.record.busy = false ↔ 0 + 1 = bytes.length ∧ 0 < 0 := by simp [hbusy]
  obtain hone | hmore : bytes.length = 1 ∨ 2 ≤ bytes.length := by omega
  · have hexec : exec .slarAck (s.raised 0x40#8 rx rest) =
        .next (s.served 0x40#8 rx rest 0x00#8 0x2C#8 [] s.record s.datTx) := hsingle (hlen.trans hone)
    exact ⟨_, run_served h (by decide) ha hexec, ⟨h.served _ _ _ (by decide) _ _ _,
      by simp [State.served, afterEvent, State.raised], hlen, hpos, hstatus, hstored,
      fun _ => by simp [State.served, afterEvent], hbusy'⟩, rfl⟩
  · have hexec : exec .slarAck (s.raised 0x40#8 rx rest) =
        .next (s.served 0x40#8 rx rest 0x04#8 0x28#8 [] s.record s.datTx) := hseveral (hlen ▸ hmore)
    exact ⟨_, run_served h (by decide) ha hexec, ⟨h.served _ _ _ (by decide) _ _ _,
      by simp [State.served, afterEvent, State.raised], hlen, hpos, hstatus, hstored, fun hlast => by omega, hbusy'⟩, rfl⟩

/-- A byte acknowledged is stored, and arms the acknowledge of the next or withholds it if it is the last. -/
theorem run_receiveNext {bytes : List Byte} {stop : Bool} {s : State} {k : Nat} {rest : List Turn}
    {v : Byte} (h : BytesReceived bytes stop k s) (hk : k + 1 < bytes.length) (hv : bytes.getD k 0x00#8 = v)
    (ha : s.agenda = .ctrl (.raise 0x50#8 v) :: .isr :: rest) :
    ∃ t, Sys2Proof.core.run 2 s = .next t ∧ BytesReceived bytes stop (k + 1) t ∧ t.agenda = rest := by
  obtain ⟨hawaiting, hstop, hlen, hpos, hstatus, ⟨m, hm, hwf, hread⟩, -, hbusy⟩ := h
  obtain ⟨hstore, -⟩ := dataReceivedAcknowledged _ (hawaiting.raised 0x50#8 v rest)
  obtain ⟨hlast, hmore⟩ := hstore m (by simp only [State.raised]; omega) hm
  have hstored : ∃ m', some (m.write k v) = some m' ∧ m'.wf = true ∧
      ∀ j, j < k + 1 → m'.read j = bytes.getD j 0x00#8 :=
    ⟨_, rfl, Memory.wf_write hwf, fun j hj => read_write_received hwf hread hv hj⟩
  obtain hend | hnext : bytes.length = k + 2 ∨ k + 2 < bytes.length := by omega
  · have hexec : exec .rxdataAck (s.raised 0x50#8 v rest) =
        .next (s.served 0x50#8 v rest 0x00#8 0x0C#8
          [.datRead v, .memWrite k v]
          { s.record with
            dataIn := some (m.write k v), position := k + 1, busy := false } s.datTx) := by
      rw [hlast (by simp only [State.raised]; omega)]
      simp only [State.served, State.raised, hpos]
      rfl
    exact ⟨_, run_served hawaiting (by decide) ha hexec, ⟨hawaiting.served _ _ _ (by decide) _ _ _,
      by simp [State.served, afterEvent, State.raised, ← hstop], hlen, rfl, hstatus, hstored,
      fun _ => by simp [State.served, afterEvent], by simp [State.served, hend]⟩, rfl⟩
  · have hexec : exec .rxdataAck (s.raised 0x50#8 v rest) =
        .next (s.served 0x50#8 v rest 0x04#8 0x08#8
          [.datRead v, .memWrite k v]
          { s.record with dataIn := some (m.write k v), position := k + 1 } s.datTx) := by
      rw [hmore (by simp only [State.raised]; omega)]
      simp only [State.served, State.raised, hpos]
      rfl
    have hbusy' : s.record.busy = false ↔ k + 1 + 1 = bytes.length ∧ 0 < k + 1 := by rw [hbusy]; omega
    exact ⟨_, run_served hawaiting (by decide) ha hexec, ⟨hawaiting.served _ _ _ (by decide) _ _ _,
      by simp [State.served, afterEvent, State.raised, ← hstop], hlen, rfl, hstatus, hstored, fun hlast => by omega,
      hbusy'⟩, rfl⟩

/-- The bytes before the last, one acknowledged event each. -/
theorem run_receiveAll {bytes : List Byte} {stop : Bool} {s : State} {k : Nat} {init : List Byte} {last : Byte}
    {rest : List (Byte × Byte)} (h : BytesReceived bytes stop k s) (hbytes : bytes.drop k = init ++ [last])
    (ha : s.agenda = deliver (init.map (fun b => (0x50#8, b)) ++ rest)) :
    ∃ t, Sys2Proof.core.run (2 * init.length) s = .next t ∧ BytesReceived bytes stop (k + init.length) t ∧
      t.agenda = deliver rest := by
  induction init generalizing k s with
  | nil => exact ⟨s, rfl, h, ha⟩
  | cons b init ih =>
    have hk : k + 1 < bytes.length := by
      have hlen := congrArg List.length hbytes
      simp only [List.length_drop, List.length_append, List.length_cons, List.length_nil] at hlen
      omega
    rw [List.drop_eq_getElem_cons (by omega), List.cons_append, List.cons.injEq] at hbytes
    obtain ⟨hb, htail⟩ := hbytes
    have hb : bytes.getD k 0x00#8 = b := by rw [List.getD_eq_getElem _ _ (by omega), hb]
    obtain ⟨t, hrun, hreceived, hagenda⟩ :=
      run_receiveNext (rest := deliver (init.map (fun b => (0x50#8, b)) ++ rest)) h hk hb ha
    obtain ⟨u, hrun', hall, hagenda'⟩ := ih hreceived htail hagenda
    have hsteps : 2 * (init.length + 1) = 2 + 2 * init.length := by omega
    have hcount : k + 1 + init.length = k + (init.length + 1) := by omega
    exact ⟨u, by rw [List.length_cons, hsteps]; exact run_trans hrun hrun', by rw [List.length_cons, ← hcount]; exact hall,
      hagenda'⟩

/-- The byte not acknowledged is stored as the last, and ends the transaction. -/
theorem run_receiveLast {bytes : List Byte} {stop : Bool} {s : State} {k : Nat} {rest : List Turn}
    {v : Byte} (h : BytesReceived bytes stop k s) (hk : k + 1 = bytes.length) (hv : bytes.getD k 0x00#8 = v)
    (ha : s.agenda = .ctrl (.raise 0x58#8 v) :: .isr :: rest) :
    ∃ t m', Sys2Proof.core.run 2 s = .next t ∧ t.Awaiting ∧ t.agenda = rest ∧ t.record.dataIn = some m' ∧
      (∀ j, j < k + 1 → m'.read j = bytes.getD j 0x00#8) ∧ t.record.position = k + 1 ∧ t.record.busy = false ∧
      t.record.status = .success ∧ t.con.getLsbD 4 = true := by
  obtain ⟨hawaiting, -, hlen, hpos, hstatus, ⟨m, hm, hwf, hread⟩, -, -⟩ := h
  obtain ⟨-, hstore, -⟩ := dataReceivedNotAcknowledged _ (hawaiting.raised 0x58#8 v rest)
  have hexec : exec .rxdataNack (s.raised 0x58#8 v rest) =
      .next (s.served 0x58#8 v rest 0x10#8 0x08#8
        [.datRead v, .memWrite k v]
        { s.record with
          dataIn := some (m.write k v), position := k + 1, busy := false } s.datTx) := by
    rw [hstore m (by simp only [State.raised]; omega) hm]
    simp only [State.served, State.raised, hpos]
    rfl
  exact ⟨_, _, run_served hawaiting (by decide) ha hexec, hawaiting.served _ _ _ (by decide) _ _ _, rfl, rfl,
    fun j hj => read_write_received hwf hread hv hj, rfl, rfl, hstatus, by simp [State.served, afterEvent]⟩

theorem deliver_append (a b : List (Byte × Byte)) : deliver (a ++ b) = deliver a ++ deliver b :=
  List.flatMap_append

/-- Settles O60: the start, the result of the read address, each acknowledged byte and then the last one. -/
theorem readTransactionStoresEveryByte : Obligations.ReadTransactionStoresEveryByte := by
  intro s bytes last m hfatal hreg hsi hkept _ hm hlen hpos hbusy hstatus ha
  have hawaiting : s.Awaiting := ⟨hfatal, hreg, hsi⟩
  have hwf : m.wf = true := wf_of_bufferKept (hm ▸ hkept.inKept)
  have hall : (bytes ++ [last]).length = bytes.length + 1 := List.length_append
  have hlast : (bytes ++ [last]).getD bytes.length 0x00#8 = last := by simp
  rw [← deliver_append] at ha
  have hrun₁ := run_start hawaiting ha
  obtain ⟨s₂, hrun₂, hreceived₂, ha₂⟩ := run_slarAck (bytes := bytes ++ [last]) (m := m)
    (hawaiting.served 0x08#8 0x00#8 _ (set := 0x00#8) (clr := 0x08#8) (by decide) _ _ _) (by omega)
    (hlen.trans hall.symm) hpos hstatus hbusy hm hwf rfl
  obtain ⟨t, hrun₃, ht, ha₃⟩ :=
    run_receiveAll (init := bytes) (last := last) (rest := [(0x58#8, last)]) hreceived₂ rfl ha₂
  rw [Nat.zero_add] at ht
  obtain ⟨u, m', hrun₄, hu, hua, hdata, hread, hcursor, hidle, hsuccess, hstop⟩ :=
    run_receiveLast (rest := []) ht hall.symm hlast ha₃
  have hrun : Sys2Proof.core.run (2 * (bytes.length + 2)) s = .next t := by
    have hsteps : 2 * (bytes.length + 2) = 2 + (2 + 2 * bytes.length) := by omega
    rw [hsteps]
    exact run_trans hrun₁ (run_trans hrun₂ hrun₃)
  have hstop₀ : t.con.getLsbD 4 = s.con.getLsbD 4 := by
    rw [ht.stop, served_getLsbD _ _ _ _ _ _ _ _ _ (by decide)]; simp
  have hbusy' : t.record.busy = false ↔ bytes ≠ [] := by
    rw [ht.busy, hall, ← List.length_pos_iff]; omega
  exact ⟨t, u, m', hrun, hbusy', ht.ack hall.symm, hstop₀, run_trans (b := 2) hrun hrun₄, hu.noFault, hua, hdata,
    fun k hk => hread k (Nat.lt_succ_of_le hk), hcursor, hidle, hsuccess, hstop, hu.notPending⟩

end Sys2Proof.Machine
